-- ==== Sys2Proof/Word.lean ====
section
/-! DEFINITION. The words of PAI-FRAMER: bytes, the 16-bit and 17-bit registers, raw byte fields (`00_scope.md` R9). -/

namespace Sys2Proof

/-- A byte: 8 bits, bit 0 the least significant (R9). -/
abbrev Byte := BitVec 8

/-- A 16-bit unsigned word: `H.LENGTH`, `PLEN`, `LR.HWVER`. -/
abbrev Half := BitVec 16

/-- A 17-bit unsigned word: `FLEN`, `CONSUMED` (R23, R24). -/
abbrev Word17 := BitVec 17

/-- `KEY_BYTES` = 16 raw bytes, byte 0 first: the key port and `LR.KEY` (R105, R27). -/
abbrev Key := Vector Byte 16

/-- Four raw bytes, byte 0 first: `LR.SERIAL` (R27). -/
abbrev Serial := Vector Byte 4

end Sys2Proof
end

