-- ==== Sys2Proof/Config.lean ====
section
/-! DEFINITION. The parameters that `00_scope.md` R8 leaves OPEN (`92_eei_decisions.md` D6, D7), fixed for an instance
(`10_state.md` R33): the enumeration codes the source does not give, and the cipher behind the cipher port. The
parameters that have a value stand in Machine/Params.lean, and so do the defaults of the open codes. -/

namespace Sys2Proof

/-- A cipher that meets the contract of R106 and nothing more. For each key and each number `m` of 16-byte blocks it is
a permutation of the byte sequences of length `16 * m`: total and a function of key and data alone (`CIPH_TOTAL`),
length-preserving (`CIPH_LEN`), and its inverse undoes it (`CIPH_INV`). R106 derives that every pair of functions with
the three properties is such a family. -/
abbrev Cipher := Key → (m : Nat) → Equiv.Perm (List.Vector Byte (16 * m))

/-- The cipher unit of this machine: a FREE VALUE. It has no body, so nothing can be proved of it but the contract of
R106, which its type says. Log 4. Safe: every claim holds whichever cipher stands behind the port. -/
opaque Config.cipher : Cipher

/-- The open part of the code tables `MT_CODE`, `CMD_CODE` and `LS_CODE` (R8, R91, R94, R97, D6): one byte for each name
whose code the source does not give. Every function that looks at a code takes such a table as an argument; `exec` and
`step` take the instance's own from `State.codes`. Log 5. -/
structure Codes where
  ipResponse : Byte
  serialPassthroughResponse : Byte
  serialPassthroughRequest : Byte
  ipAuthentication : Byte
  f2 : Byte
  f3 : Byte
  f4 : Byte
  f5 : Byte
  f8 : Byte
  fb : Byte
  success : Byte
  invalidPassword : Byte
deriving DecidableEq, Repr

end Sys2Proof
end

