-- ==== Sys2Proof/Syntax.lean ====
section
/-! DEFINITION. The abstract syntax: the rows of `spec/opcode_table.json`, the names of the three enumerations, the
fields of the wire formats, and the registers and buffers a host move names (`10_state.md` R10, R27, R31). -/

namespace Sys2Proof

/-- The four names of `message_type` (R91). -/
inductive MessageType where
  | ipResponse
  | serialPassthroughResponse
  | ipRequest
  | serialPassthroughRequest
deriving DecidableEq, Repr

/-- The eight names of `command` (R94). -/
inductive CommandName where
  | ipAuthentication
  | f2
  | f3
  | f4
  | f5
  | f8
  | fb
  | panelCommunication
deriving DecidableEq, Repr

/-- The four names of `login_status` (R97). -/
inductive LoginStatus where
  | success
  | invalidPassword
  | userAlreadyConnected
  | userAlreadyConnected1
deriving DecidableEq, Repr

/-- A decoded enumeration byte under raw passthrough (R96): a name of the enumeration, or the raw byte. -/
inductive Coded (α : Type) where
  | known (name : α)
  | unknown (byte : Byte)
deriving DecidableEq, Repr

/-- The seven header fields a message can vary, `length` first (R10, R61): the content of `h[1]` to `h[7]`, and what
the wire header carries. `sof` is a constant (R11, R62) and is not among them. -/
structure Header where
  length : Half
  msgType : Byte
  flags : Byte
  command : Byte
  subCommand : Byte
  unknown1 : Byte
  unknown2 : Byte
deriving DecidableEq, Repr

/-- The fields of the login response payload, format LOGIN25 (R160). -/
structure LoginFields where
  status : Byte
  key : Key
  hwver : Half
  fwMajor : Byte
  fwMinor : Byte
  serial : Serial
deriving DecidableEq, Repr

/-- The header field registers `h[0]` to `h[7]` by name (R10). -/
inductive HReg where
  | sof
  | length
  | msgType
  | flags
  | command
  | subCommand
  | unknown1
  | unknown2
deriving DecidableEq, Repr

/-- Every register HREAD can name (R10, R21 to R24, R27, R31). -/
inductive Reg where
  | h (r : HReg)
  | status
  | plen
  | flen
  | consumed
  | lrStatus
  | lrClass
  | lrKey
  | lrHwver
  | lrFwMajor
  | lrFwMinor
  | lrSerial
deriving DecidableEq, Repr

/-- The two address spaces (R40). -/
inductive Space where
  | pbuf
  | fbuf
deriving DecidableEq, Repr

/-- One constructor per row of `spec/opcode_table.json`. The first five are the operations of R75 (format OP8); the
rest are the encodings of data those operations read and write (R79), each with the fields its format gives it. -/
inductive Instr where
  /-- INITQ, op code `0x01` (R156). -/
  | initq
  /-- INITR, op code `0x02` (R157). -/
  | initr
  /-- ENC, op code `0x10` (R138). -/
  | enc
  /-- DEC, op code `0x11` (R142). -/
  | dec
  /-- LGN, op code `0x20` (R161). -/
  | lgn
  /-- FRAME.HDR16, the 16-byte wire header (R61). -/
  | frameHdr16 (fields : Header)
  /-- FRAME.PAYLOAD.RAW, the payload region when `flags.encrypt` = 0: the payload itself (R67). -/
  | framePayloadRaw (payload : List Byte)
  /-- FRAME.PAYLOAD.CIPH, the payload region when `flags.encrypt` = 1: the ciphertext block of a payload whose declared
  length is `length` (R68). -/
  | framePayloadCiph (length : Half) (block : List Byte)
  /-- message_type.ip_response (R91). -/
  | messageTypeIpResponse
  /-- message_type.serial_passthrough_response (R91). -/
  | messageTypeSerialPassthroughResponse
  /-- message_type.ip_request (R91). -/
  | messageTypeIpRequest
  /-- message_type.serial_passthrough_request (R91). -/
  | messageTypeSerialPassthroughRequest
  /-- command.ip_authentication (R94). -/
  | commandIpAuthentication
  /-- command.F2 (R94). -/
  | commandF2
  /-- command.F3 (R94). -/
  | commandF3
  /-- command.F4 (R94). -/
  | commandF4
  /-- command.F5 (R94). -/
  | commandF5
  /-- command.F8 (R94). -/
  | commandF8
  /-- command.FB (R94). -/
  | commandFB
  /-- command.panel_communication (R94). -/
  | commandPanelCommunication
  /-- login_status.success (R97). -/
  | loginStatusSuccess
  /-- login_status.invalid_password (R97). -/
  | loginStatusInvalidPassword
  /-- login_status.user_already_connected (R97). -/
  | loginStatusUserAlreadyConnected
  /-- login_status.user_already_connected1 (R97). -/
  | loginStatusUserAlreadyConnected1
  /-- LOGIN25, the login response payload (R160). -/
  | login25 (fields : LoginFields)
deriving DecidableEq, Repr

end Sys2Proof
end

