-- ==== Sys2Proof/Machine/Params.lean ====
section
/-! DEFINITION. The implementation parameters of `00_scope.md` R8 that have a value (log 6), the code tables with the
defaults of their open codes (log 5), and the two shapes' defaults built from them (`44_login_and_system_ops.md` R156, R157). -/

namespace Sys2Proof.Machine

/-- `SOF`, the start-of-frame marker (R8, R11). -/
def sof : Byte := 0xAA

/-- `FILL`, the alignment byte of the wire format (R8). -/
def fill : Byte := 0xEE

/-- `PT_FILL`, the byte that pads plaintext to a cipher block (R8, R108). Log 6. -/
def ptFill : Byte := 0xEE

/-- `HDR_WIRE`, the length of the wire header (R8, R17). -/
def hdrWire : Nat := 16

/-- `PMAX`, the largest payload (R8, R22). -/
def pmax : Nat := 65535

/-- `FMAX`, the largest frame (R8, R23). -/
def fmax : Nat := 65552

/-- `LOGIN_LEN`, the length of the login response payload (R8, R160). -/
def loginLen : Nat := 25

/-- The defaults the spec gives the open codes, from general knowledge (D6, G1 to G3). Log 5. -/
def defaultCodes : Codes where
  ipResponse := 0x01
  serialPassthroughResponse := 0x02
  serialPassthroughRequest := 0x04
  ipAuthentication := 0xF0
  f2 := 0xF2
  f3 := 0xF3
  f4 := 0xF4
  f5 := 0xF5
  f8 := 0xF8
  fb := 0xFB
  success := 0x00
  invalidPassword := 0x01

/-- `MT_CODE`, the code table of `message_type` (R91). The code of `ip_request` is the source's, the others are open. -/
def mtCode (c : Codes) : MessageType → Byte
  | .ipResponse => c.ipResponse
  | .serialPassthroughResponse => c.serialPassthroughResponse
  | .ipRequest => 0x03
  | .serialPassthroughRequest => c.serialPassthroughRequest

/-- `CMD_CODE`, the code table of `command` (R94). The code of `panel_communication` is the source's, the others are
open. -/
def cmdCode (c : Codes) : CommandName → Byte
  | .ipAuthentication => c.ipAuthentication
  | .f2 => c.f2
  | .f3 => c.f3
  | .f4 => c.f4
  | .f5 => c.f5
  | .f8 => c.f8
  | .fb => c.fb
  | .panelCommunication => 0x00

/-- `LS_CODE`, the code table of `login_status` (R97). `0x02` and `0x04` are the source's, assigned in order of mention
(D30); the others are open. -/
def lsCode (c : Codes) : LoginStatus → Byte
  | .success => c.success
  | .invalidPassword => c.invalidPassword
  | .userAlreadyConnected => 0x02
  | .userAlreadyConnected1 => 0x04

/-- `DEF_ENCRYPT` (R8). -/
def defEncrypt : Bool := true

/-- `DEF_RSVD`, the default of `flags[7:1]` (R8, R14). Log 6. -/
def defRsvd : BitVec 7 := 4

/-- `DEF_COMMAND` (R8). -/
def defCommand : CommandName := .panelCommunication

/-- `DEF_MT_REQUEST` (R8). -/
def defMtRequest : MessageType := .ipRequest

/-- `DEF_MT_RESPONSE` (R8). -/
def defMtResponse : MessageType := .ipResponse

/-- `DEF_SUB_COMMAND` (R8). Log 6. -/
def defSubCommand : Byte := 0x00

/-- `DEF_UNKNOWN1` (R8). Log 6. -/
def defUnknown1 : Byte := 0x00

/-- `DEF_U2_REQUEST` (R8). -/
def defU2Request : Byte := 0x00

/-- `DEF_U2_RESPONSE` (R8). -/
def defU2Response : Byte := 0x03

/-- Operand assembly of the flags byte: `2 * rsvd + encrypt` (R64). -/
def flagsByte (rsvd : BitVec 7) (encrypt : Bool) : Byte := rsvd ++ BitVec.ofBool encrypt

/-- The Request shape's default header fields (R156, R32). -/
def requestDefaults (c : Codes) : Header where
  length := 0
  msgType := mtCode c defMtRequest
  flags := flagsByte defRsvd defEncrypt
  command := cmdCode c defCommand
  subCommand := defSubCommand
  unknown1 := defUnknown1
  unknown2 := defU2Request

/-- The Response shape's default header fields (R157): the Request shape's with two values changed. -/
def responseDefaults (c : Codes) : Header :=
  { requestDefaults c with msgType := mtCode c defMtResponse, unknown2 := defU2Response }

end Sys2Proof.Machine
end

