-- ==== Sys2Proof/Machine/Enumerations.lean ====
section
/-! DEFINITION. The Enumerations component: `40_enumerations.md` R90 to R100. Pure functions, used by ENC, DEC and LGN.
Each takes the instance's code tables as its first argument (D6). -/

namespace Sys2Proof

/-- Whether the value is `Unknown(byte)`. -/
def Coded.isUnknown {α : Type} : Coded α → Bool
  | .known _ => false
  | .unknown _ => true

end Sys2Proof

namespace Sys2Proof.Machine

/-- The names of `message_type` in the order of R91. -/
def messageTypes : List MessageType :=
  [.ipResponse, .serialPassthroughResponse, .ipRequest, .serialPassthroughRequest]

/-- The names of `command` in the order of R94. -/
def commandNames : List CommandName :=
  [.ipAuthentication, .f2, .f3, .f4, .f5, .f8, .fb, .panelCommunication]

/-- The names of `login_status` in the order of R97. -/
def loginStatuses : List LoginStatus :=
  [.success, .invalidPassword, .userAlreadyConnected, .userAlreadyConnected1]

/-- Raw passthrough (R96): the name whose code the byte is, or the byte itself, never the nearest name. -/
def codedBy {α : Type} (names : List α) (code : α → Byte) (b : Byte) : Coded α :=
  match names.find? (fun n => code n == b) with
  | some n => .known n
  | none => .unknown b

/-- The normal form of a value (R92): `Unknown(b)` where `b` is a code of the enumeration is `Known` of its name. -/
def normalBy {α : Type} (names : List α) (code : α → Byte) : Coded α → Coded α
  | .known n => .known n
  | .unknown b => codedBy names code b

/-- The wire byte of a value, normalised first: never fails (R92). -/
def encodeBy {α : Type} (names : List α) (code : α → Byte) (v : Coded α) : Byte :=
  match normalBy names code v with
  | .known n => code n
  | .unknown b => b

variable (c : Codes)

/-- `mt_decode` (R93). -/
def mtDecode (b : Byte) : Coded MessageType := codedBy messageTypes (mtCode c) b

/-- The normal form of a `message_type` value (R92). -/
def mtNormal (v : Coded MessageType) : Coded MessageType := normalBy messageTypes (mtCode c) v

/-- `mt_encode` (R92). -/
def mtEncode (v : Coded MessageType) : Byte := encodeBy messageTypes (mtCode c) v

/-- `cmd_decode` (R95). -/
def cmdDecode (b : Byte) : Coded CommandName := codedBy commandNames (cmdCode c) b

/-- The normal form of a `command` value (R92). -/
def cmdNormal (v : Coded CommandName) : Coded CommandName := normalBy commandNames (cmdCode c) v

/-- `cmd_encode` (R92). -/
def cmdEncode (v : Coded CommandName) : Byte := encodeBy commandNames (cmdCode c) v

/-- `ls_decode` (R98). -/
def lsDecode (b : Byte) : Coded LoginStatus := codedBy loginStatuses (lsCode c) b

/-- The normal form of a `login_status` value (R92). -/
def lsNormal (v : Coded LoginStatus) : Coded LoginStatus := normalBy loginStatuses (lsCode c) v

/-- `ls_encode` (R92). -/
def lsEncode (v : Coded LoginStatus) : Byte := encodeBy loginStatuses (lsCode c) v

/-- `ls_class` (R98): 0 success, 1 invalid password, 2 already connected (two codes), 3 unknown code. -/
def lsClass (b : Byte) : BitVec 2 :=
  if b = lsCode c .success then 0
  else if b = lsCode c .invalidPassword then 1
  else if b = lsCode c .userAlreadyConnected ∨ b = lsCode c .userAlreadyConnected1 then 2
  else 3

end Sys2Proof.Machine

namespace Sys2Proof

/-- Each enumeration is a bijection between its names and their codes (R90): no two names of one share a code. -/
def Codes.wf (c : Codes) : Bool :=
  decide (Machine.messageTypes.map (Machine.mtCode c)).Nodup &&
  decide (Machine.commandNames.map (Machine.cmdCode c)).Nodup &&
  decide (Machine.loginStatuses.map (Machine.lsCode c)).Nodup

end Sys2Proof
end

