-- ==== Sys2Proof/Machine/Bytes.lean ====
section
/-! DEFINITION. Byte order (`20_memory.md` R42 to R46) and the alignment arithmetic on lengths (`00_scope.md` R9,
`20_memory.md` R48). -/

namespace Sys2Proof.Machine

/-- `le16(n) = [n[7:0], n[15:8]]` (R9, R43). -/
def le16 (n : Half) : List Byte := [n.extractLsb' 0 8, n.extractLsb' 8 8]

/-- `from_le16(b0, b1) = b0 + 256 * b1` (R9, R63). -/
def fromLe16 (b0 b1 : Byte) : Half := b1 ++ b0

/-- `be16(n) = [n[15:8], n[7:0]]` (R9). -/
def be16 (n : Half) : List Byte := [n.extractLsb' 8 8, n.extractLsb' 0 8]

/-- `from_be16(b0, b1) = 256 * b0 + b1` (R9, R44). -/
def fromBe16 (b0 b1 : Byte) : Half := b0 ++ b1

/-- `padlen(n)`: how many fill bytes align a region of `n` bytes to 16 (R9). -/
def padlen (n : Nat) : Nat := (16 - n % 16) % 16

/-- `align16(n)`: the least multiple of 16 that is at least `n` (R9). -/
def align16 (n : Nat) : Nat := n + padlen n

/-- `pad16(s)`: `s` followed by `0xEE` bytes up to a multiple of 16 (R9). -/
def pad16 (s : List Byte) : List Byte := s ++ List.replicate (padlen s.length) fill

/-- `s[a..a + n)` of R9, for `a + n` within the sequence. -/
def slice (s : List Byte) (a n : Nat) : List Byte := (s.drop a).take n

end Sys2Proof.Machine
end

