-- ==== Sys2Proof/Machine/Errors.lean ====
section
/-! DEFINITION. The block's fatal errors and their codes (`60_exceptions.md` R175 to R180, `10_state.md` R21). -/

namespace Sys2Proof.Machine

/-- The four fatal errors. -/
inductive Err where
  /-- `sof` mismatch, or fewer than 16 bytes in `FBUF` (R175). -/
  | invalidHeader
  /-- The encrypt bit is 1 and no key is presented (R176). -/
  | missingKey
  /-- The buffer holds fewer bytes than the frame or the login payload needs (R177). -/
  | payloadTruncated
  /-- The op code is not assigned (R178). -/
  | illegalOp
deriving DecidableEq, Repr

/-- The value of `STATUS.ERR` that reports the error (R21, R180). -/
def Err.code : Err → BitVec 3
  | .invalidHeader => 1
  | .missingKey => 2
  | .payloadTruncated => 3
  | .illegalOp => 4

end Sys2Proof.Machine
end

