-- ==== Sys2Proof/Machine/HeaderCodec.lean ====
section
/-! DEFINITION. The Header Codec component: `42_header_codec.md` R120 to R127, format HDR16 (`30_encoding.md` R61). -/

namespace Sys2Proof

/-- `H.FLAGS.ENCRYPT`: bit 0 of the flags byte (R14, R45). -/
def Header.encrypt (h : Header) : Bool := h.flags.getLsbD 0

/-- `H.FLAGS.RSVD`: bits 7:1 of the flags byte (R14, R45). -/
def Header.rsvd (h : Header) : BitVec 7 := h.flags.extractLsb' 1 7

end Sys2Proof

namespace Sys2Proof.Machine

/-- The packed header before alignment: 9 bytes (R17, R120). -/
def hdrLogicalBytes (h : Header) : List Byte :=
  [sof] ++ le16 h.length ++ [h.msgType, h.flags, h.command, h.subCommand, h.unknown1, h.unknown2]

/-- `hdr_encode` (R120): the logical header aligned to 16 with `0xEE`. Its operand `n` is the field `length`, which ENC
always derives from the payload (R121). -/
def hdrEncode (h : Header) : List Byte := pad16 (hdrLogicalBytes h)

/-- `hdr_decode` (R123): 16 bytes and the marker, or `InvalidHeader`; then the fields by position, the pad ignored. -/
def hdrDecode (b : List Byte) : Except Err Header :=
  if _ : b.length < 16 then .error .invalidHeader
  else if b[0] ≠ sof then .error .invalidHeader
  else .ok {
    length := fromLe16 b[1] b[2]
    msgType := b[3]
    flags := b[4]
    command := b[5]
    subCommand := b[6]
    unknown1 := b[7]
    unknown2 := b[8] }

end Sys2Proof.Machine
end

