-- ==== Sys2Proof/Machine/LoginLayout.lean ====
section
/-! DEFINITION. The layout of the login response payload, format LOGIN25: `44_login_and_system_ops.md` R160, R161. -/

namespace Sys2Proof.Machine

/-- The fields of a login response payload by offset (R160, R161); fewer than 25 bytes is `PayloadTruncated`, and bytes
from offset 25 on are ignored. -/
def loginParse (p : List Byte) : Except Err LoginFields :=
  if _ : p.length < 25 then .error .payloadTruncated
  else .ok {
    status := p[0]
    key := ⟨(slice p 1 16).toArray, by simp [slice]; omega⟩
    hwver := fromBe16 p[17] p[18]
    fwMajor := p[19]
    fwMinor := p[20]
    serial := ⟨(slice p 21 4).toArray, by simp [slice]; omega⟩ }

/-- The 25 bytes of a login response payload with these fields (R160). The block never builds them (R164); a host does,
and the encoder of Decode.lean writes them down. -/
def loginBytes (f : LoginFields) : List Byte :=
  [f.status] ++ f.key.toList ++ be16 f.hwver ++ [f.fwMajor, f.fwMinor] ++ f.serial.toList

end Sys2Proof.Machine
end

