-- ==== Sys2Proof/Machine/Transform.lean ====
section
/-! DEFINITION. The Encryption Transform component: `41_encryption_transform.md` R105 to R115, and the two payload
region formats of `43_message_codec.md` R136, R137, R140. Each function takes the cipher as an argument; the machine
gives it `Config.cipher`. -/

namespace Sys2Proof.Machine

/-- The key port as sampled once when an operation starts (R105, R59). -/
structure KeyPort where
  valid : Bool
  key : Key
deriving DecidableEq, Repr

/-- `key_or_fail` (R110): the key is looked at only when `KEY_VALID` = 1. -/
def keyOrFail (port : KeyPort) : Except Err Key :=
  if port.valid then .ok port.key else .error .missingKey

/-- An aligned length is a multiple of the cipher's block size (R9, R48). -/
theorem align16_mod (n : Nat) : align16 n % 16 = 0 := by
  simp only [align16, padlen]
  omega

/-- A sequence of whole cipher blocks as an argument of the cipher. -/
def asBlocks (x : List Byte) (h : x.length % 16 = 0) : List.Vector Byte (16 * (x.length / 16)) := ⟨x, by omega⟩

/-- `CIPH_ENC(k, x)`, for `x` whose length is a multiple of `CB` = 16; it is applied to no other sequence (R106). -/
def ciphEnc (c : Cipher) (k : Key) (x : List Byte) (h : x.length % 16 = 0) : List Byte :=
  (c k (x.length / 16) (asBlocks x h)).toList

/-- `CIPH_DEC(k, x)`, for `x` whose length is a multiple of `CB` = 16; it is applied to no other sequence (R106). -/
def ciphDec (c : Cipher) (k : Key) (x : List Byte) (h : x.length % 16 = 0) : List Byte :=
  ((c k (x.length / 16)).symm (asBlocks x h)).toList

/-- The plaintext padded with `PT_FILL` to whole cipher blocks: the `q` of R108. -/
def padPlain (p : List Byte) : List Byte := p ++ List.replicate (padlen p.length) ptFill

theorem length_padPlain (p : List Byte) : (padPlain p).length = align16 p.length := by
  simp [padPlain, align16]

/-- `xf_encrypt(p, k)` (R108). -/
def xfEncrypt (c : Cipher) (p : List Byte) (k : Key) : List Byte :=
  ciphEnc c k (padPlain p) (by rw [length_padPlain, align16_mod])

/-- `xf_decrypt(x, k, declaredLength)` (R109): decrypt all of it, then truncate to the declared length or to what there
is; the rest is dropped unseen. -/
def xfDecrypt (c : Cipher) (x : List Byte) (h : x.length % 16 = 0) (k : Key) (declared : Nat) : List Byte :=
  (ciphDec c k x h).take declared

/-- The payload region on encode (R136, R137): with the encrypt bit, the transformed payload aligned to 16, for which a
key is needed; without it, the payload as it is. -/
def encodeRegion (c : Cipher) (port : KeyPort) (encrypt : Bool) (p : List Byte) : Except Err (List Byte) :=
  if encrypt then
    match keyOrFail port with
    | .error e => .error e
    | .ok k => .ok (pad16 (xfEncrypt c p k))
  else .ok p

/-- The bytes a payload region of declared length `n` takes on the wire (R69, R140). -/
def regionLength (encrypt : Bool) (n : Nat) : Nat := if encrypt then align16 n else n

/-- RAW on decode (R137): exactly `n` bytes of what follows the header, no transform; fewer are too few (R177). -/
def decodeRaw (n : Nat) (region : List Byte) : Except Err (List Byte) :=
  if region.length < n then .error .payloadTruncated else .ok (region.take n)

/-- CIPH on decode (R140, R142): the key is needed first, then the `align16(n)` bytes of the ciphertext block, which are
decrypted whole and truncated to `n`. -/
def decodeCiph (c : Cipher) (port : KeyPort) (n : Nat) (region : List Byte) : Except Err (List Byte) :=
  match keyOrFail port with
  | .error e => .error e
  | .ok k =>
    if h : region.length < align16 n then .error .payloadTruncated
    else .ok (xfDecrypt c (region.take (align16 n)) (by
      rw [List.length_take_of_le (by omega), align16_mod]) k n)

/-- The payload region on decode: the one branch of the block, on the encrypt bit alone (R135). -/
def decodeRegion (c : Cipher) (port : KeyPort) (encrypt : Bool) (n : Nat) (region : List Byte) :
    Except Err (List Byte) :=
  if encrypt then decodeCiph c port n region else decodeRaw n region

end Sys2Proof.Machine
end

