-- ==== Sys2Proof/WellFormed.lean ====
section
/-! DEFINITION. Which terms of `Instr` the wire formats admit. The widths of single fields are in their types; what is
left is the length of a payload region (`30_encoding.md` R67, R68; `10_state.md` R22). -/

namespace Sys2Proof

/-- A raw payload is at most `PMAX` bytes (R22, R67); a ciphertext block is `align16(length)` bytes (R68). Every other
term is well formed. -/
def Instr.wellFormed : Instr → Bool
  | .initq => true
  | .initr => true
  | .enc => true
  | .dec => true
  | .lgn => true
  | .frameHdr16 _ => true
  | .framePayloadRaw payload => decide (payload.length ≤ Machine.pmax)
  | .framePayloadCiph length block => decide (block.length = Machine.align16 length.toNat)
  | .messageTypeIpResponse => true
  | .messageTypeSerialPassthroughResponse => true
  | .messageTypeIpRequest => true
  | .messageTypeSerialPassthroughRequest => true
  | .commandIpAuthentication => true
  | .commandF2 => true
  | .commandF3 => true
  | .commandF4 => true
  | .commandF5 => true
  | .commandF8 => true
  | .commandFB => true
  | .commandPanelCommunication => true
  | .loginStatusSuccess => true
  | .loginStatusInvalidPassword => true
  | .loginStatusUserAlreadyConnected => true
  | .loginStatusUserAlreadyConnected1 => true
  | .login25 _ => true

end Sys2Proof
end

