-- ==== Sys2Proof/Decode.lean ====
section
/-! DEFINITION. The decoder and, after it, the encoder of the rows of `spec/opcode_table.json`. The same byte means
different things in different places (`0x01` is INITQ on `OP`, `ip_response` at frame offset 3), so a row is read at a
PLACE (`30_encoding.md` R79: what selects each format). Log 8. -/

namespace Sys2Proof

/-- Where an encoding stands (R79). -/
inductive Place where
  /-- The `OP` port, format OP8 (R75). -/
  | opPort
  /-- The first bytes of `FBUF`, format HDR16 (R61). -/
  | header
  /-- What follows a header with this encrypt bit and this `length`, formats RAW and CIPH (R67, R68). -/
  | payloadRegion (encrypt : Bool) (length : Half)
  /-- The byte `message_type`, frame offset 3 (R91). -/
  | messageType
  /-- The byte `command`, frame offset 5 (R94). -/
  | command
  /-- The byte `login_status`, login payload offset 0 (R97). -/
  | loginStatus
  /-- `PBUF` when the host starts LGN, format LOGIN25 (R160). -/
  | loginPayload
deriving DecidableEq, Repr

/-- Why bytes at a place are no row of the table. -/
inductive DecodeError where
  /-- An op code that R75 does not assign (R76). -/
  | unassignedOp (op : Byte)
  /-- Not exactly one byte where one byte stands. -/
  | notOneByte
  /-- Fewer than 16 bytes, or the first is not `0xAA` (R70, R175). -/
  | invalidHeader
  /-- Fewer bytes than the region or the login payload needs (R70, R177). -/
  | truncated
  /-- A byte outside the enumeration's codes: an unknown code, kept raw by the block (R96). -/
  | unknownCode (byte : Byte)
deriving DecidableEq, Repr

/-- The op codes (R75). -/
def decodeOpByte (op : Byte) : Except DecodeError Instr :=
  if op = 0x01 then .ok .initq
  else if op = 0x02 then .ok .initr
  else if op = 0x10 then .ok .enc
  else if op = 0x11 then .ok .dec
  else if op = 0x20 then .ok .lgn
  else .error (.unassignedOp op)

/-- The row of a name of `message_type` (R91). -/
def MessageType.row : MessageType → Instr
  | .ipResponse => .messageTypeIpResponse
  | .serialPassthroughResponse => .messageTypeSerialPassthroughResponse
  | .ipRequest => .messageTypeIpRequest
  | .serialPassthroughRequest => .messageTypeSerialPassthroughRequest

/-- The row of a name of `command` (R94). -/
def CommandName.row : CommandName → Instr
  | .ipAuthentication => .commandIpAuthentication
  | .f2 => .commandF2
  | .f3 => .commandF3
  | .f4 => .commandF4
  | .f5 => .commandF5
  | .f8 => .commandF8
  | .fb => .commandFB
  | .panelCommunication => .commandPanelCommunication

/-- The row of a name of `login_status` (R97). -/
def LoginStatus.row : LoginStatus → Instr
  | .success => .loginStatusSuccess
  | .invalidPassword => .loginStatusInvalidPassword
  | .userAlreadyConnected => .loginStatusUserAlreadyConnected
  | .userAlreadyConnected1 => .loginStatusUserAlreadyConnected1

/-- The row of a decoded enumeration value, or the unknown byte by name. -/
def rowOfCoded {α : Type} (row : α → Instr) : Coded α → Except DecodeError Instr
  | .known n => .ok (row n)
  | .unknown b => .error (.unknownCode b)

/-- A decoder of one byte, on a sequence of bytes. -/
def oneByte (f : Byte → Except DecodeError Instr) : List Byte → Except DecodeError Instr
  | [b] => f b
  | _ => .error .notOneByte

/-- The row that bytes encode at a place: total, every rejection by name. A header and a login payload may have bytes
after them (R123, R161); so may a payload region (R145). The codes of the enumerations are the instance's (D6). -/
def decodeAt (c : Codes) (place : Place) (bytes : List Byte) : Except DecodeError Instr :=
  match place with
  | .opPort => oneByte decodeOpByte bytes
  | .header =>
    match Machine.hdrDecode bytes with
    | .ok h => .ok (.frameHdr16 h)
    | .error _ => .error .invalidHeader
  | .payloadRegion encrypt length =>
    let n := Machine.regionLength encrypt length.toNat
    if bytes.length < n then .error .truncated
    else if encrypt then .ok (.framePayloadCiph length (bytes.take n))
    else .ok (.framePayloadRaw (bytes.take n))
  | .messageType => oneByte (fun b => rowOfCoded MessageType.row (Machine.mtDecode c b)) bytes
  | .command => oneByte (fun b => rowOfCoded CommandName.row (Machine.cmdDecode c b)) bytes
  | .loginStatus => oneByte (fun b => rowOfCoded LoginStatus.row (Machine.lsDecode c b)) bytes
  | .loginPayload =>
    match Machine.loginParse bytes with
    | .ok f => .ok (.login25 f)
    | .error _ => .error .truncated

/-- The decoder of what the block takes as its next instruction: the byte on the `OP` port (R25, R75). -/
def decodeOp (op : Byte) : Except DecodeError Instr := oneByte decodeOpByte [op]

/-- The bytes of a number of `n` bits, bit 0 the least significant bit of the first byte; a last part byte counts. -/
def bytesOfNumber (nbits w : Nat) : List Byte :=
  (List.range ((nbits + 7) / 8)).map (fun i => BitVec.ofNat 8 (w / 256 ^ i))

/-- The instruction the decoder reads from a word of the opcode table. The block takes instructions from the `OP` port
alone, a byte at a time (R25, R75): a word of any other size, and a byte that is a code of some other place, is none.
Log 8. -/
def decodeTableWord (nbits w : Nat) : Option Instr :=
  match oneByte decodeOpByte (bytesOfNumber nbits w) with
  | .ok i => some i
  | .error _ => none

/-- The place where a row's encoding stands. -/
def Instr.place : Instr → Place
  | .initq => .opPort
  | .initr => .opPort
  | .enc => .opPort
  | .dec => .opPort
  | .lgn => .opPort
  | .frameHdr16 _ => .header
  | .framePayloadRaw payload => .payloadRegion false (BitVec.ofNat 16 payload.length)
  | .framePayloadCiph length _ => .payloadRegion true length
  | .messageTypeIpResponse => .messageType
  | .messageTypeSerialPassthroughResponse => .messageType
  | .messageTypeIpRequest => .messageType
  | .messageTypeSerialPassthroughRequest => .messageType
  | .commandIpAuthentication => .command
  | .commandF2 => .command
  | .commandF3 => .command
  | .commandF4 => .command
  | .commandF5 => .command
  | .commandF8 => .command
  | .commandFB => .command
  | .commandPanelCommunication => .command
  | .loginStatusSuccess => .loginStatus
  | .loginStatusInvalidPassword => .loginStatus
  | .loginStatusUserAlreadyConnected => .loginStatus
  | .loginStatusUserAlreadyConnected1 => .loginStatus
  | .login25 _ => .loginPayload

/-- The bytes of a row, at its place: the op codes (R75), the header with its pad `0xEE` (R61, R120), the payload region
(R67, R68), the codes of the enumerations (R91, R94, R97), the login payload (R160). -/
def encode (c : Codes) : Instr → List Byte
  | .initq => [0x01]
  | .initr => [0x02]
  | .enc => [0x10]
  | .dec => [0x11]
  | .lgn => [0x20]
  | .frameHdr16 fields => Machine.hdrEncode fields
  | .framePayloadRaw payload => payload
  | .framePayloadCiph _ block => block
  | .messageTypeIpResponse => [Machine.mtEncode c (.known .ipResponse)]
  | .messageTypeSerialPassthroughResponse => [Machine.mtEncode c (.known .serialPassthroughResponse)]
  | .messageTypeIpRequest => [Machine.mtEncode c (.known .ipRequest)]
  | .messageTypeSerialPassthroughRequest => [Machine.mtEncode c (.known .serialPassthroughRequest)]
  | .commandIpAuthentication => [Machine.cmdEncode c (.known .ipAuthentication)]
  | .commandF2 => [Machine.cmdEncode c (.known .f2)]
  | .commandF3 => [Machine.cmdEncode c (.known .f3)]
  | .commandF4 => [Machine.cmdEncode c (.known .f4)]
  | .commandF5 => [Machine.cmdEncode c (.known .f5)]
  | .commandF8 => [Machine.cmdEncode c (.known .f8)]
  | .commandFB => [Machine.cmdEncode c (.known .fb)]
  | .commandPanelCommunication => [Machine.cmdEncode c (.known .panelCommunication)]
  | .loginStatusSuccess => [Machine.lsEncode c (.known .success)]
  | .loginStatusInvalidPassword => [Machine.lsEncode c (.known .invalidPassword)]
  | .loginStatusUserAlreadyConnected => [Machine.lsEncode c (.known .userAlreadyConnected)]
  | .loginStatusUserAlreadyConnected1 => [Machine.lsEncode c (.known .userAlreadyConnected1)]
  | .login25 fields => Machine.loginBytes fields

end Sys2Proof
end

