-- ==== Sys2Proof/Machine/Flags.lean ====
section
/-! DEFINITION. The STATUS register: its layout (`10_state.md` R21) and the value each way of ending an operation gives
it (`43_message_codec.md` R138, R142; `44_login_and_system_ops.md` R156, R157, R161; `60_exceptions.md` R182). -/

namespace Sys2Proof.Machine

/-- `STATUS` from its fields: `ERR` in bits 2:0, `UNK_MT` bit 4, `UNK_CMD` bit 5, `UNK_LS` bit 6, bits 3 and 7 zero
(R21). -/
def statusWord (err : BitVec 3) (unkMt unkCmd unkLs : Bool) : Byte :=
  0#1 ++ BitVec.ofBool unkLs ++ BitVec.ofBool unkCmd ++ BitVec.ofBool unkMt ++ 0#1 ++ err

/-- `STATUS.ERR` (R21). -/
def statusErr (w : Byte) : BitVec 3 := w.extractLsb' 0 3

/-- `STATUS.UNK_MT` (R21). -/
def statusUnkMt (w : Byte) : Bool := w.getLsbD 4

/-- `STATUS.UNK_CMD` (R21). -/
def statusUnkCmd (w : Byte) : Bool := w.getLsbD 5

/-- `STATUS.UNK_LS` (R21). -/
def statusUnkLs (w : Byte) : Bool := w.getLsbD 6

/-- `STATUS` after a fatal error (R182): the code, all flags 0. -/
def statusOfError (e : Err) : Byte := statusWord e.code false false false

/-- `STATUS` after INITQ and INITR: all zero (R156, R157). -/
def statusClear : Byte := statusWord 0 false false false

/-- `STATUS` after a successful ENC or DEC, from the header registers as the operation leaves them (R138, R142): an
unknown code is flagged and is no error (R179). -/
def statusOfHeader (c : Codes) (h : Header) : Byte :=
  statusWord 0 (mtDecode c h.msgType).isUnknown (cmdDecode c h.command).isUnknown false

/-- `STATUS` after a successful LGN, from the class it found (R161). -/
def statusOfLogin (cls : BitVec 2) : Byte := statusWord 0 false false (cls == 3)

end Sys2Proof.Machine
end

