-- ==== Sys2Proof/Machine/State.lean ====
section
/-! DEFINITION. The state of PAI-FRAMER as plain data (`10_state.md`), the inputs that drive it, and its reset value
(R32). -/

namespace Sys2Proof.Machine

/-- The two buffers, each a list of (offset, byte) cells in one canonical form: the offsets are 0, 1, 2, … in order. An
offset that is not listed does not exist (R28, R29, R41). Log 12. -/
structure Memory where
  pbuf : List Host.Cell
  fbuf : List Host.Cell
deriving DecidableEq, Repr

/-- The login record registers `LR.*` (R27). -/
structure LoginRegs where
  fields : LoginFields
  cls : BitVec 2
deriving DecidableEq, Repr

/-- A host move that is not START (R31). -/
inductive HostMove where
  | hread (r : Reg)
  | hwrite (r : HReg) (v : Nat)
  | hload (space : Space) (bytes : List Byte)
  | hreadbuf (space : Space) (addr n : Nat)
deriving DecidableEq, Repr

/-- What can happen to the block next: an op code on the `OP` port (R25), another host move (R31), a change of what the
key provider drives (R77, R105), the reset input (R200). Log 1. -/
inductive Input where
  | start (op : Byte)
  | move (m : HostMove)
  | key (k : Key)
  | noKey
  | reset
deriving DecidableEq, Repr

/-- The value of a register as HREAD returns it, at the register's width (R10, R21 to R24, R27). -/
inductive RegValue where
  | w2 (v : BitVec 2)
  | w8 (v : Byte)
  | w16 (v : Half)
  | w17 (v : Word17)
  | raw (v : List Byte)
deriving DecidableEq, Repr

/-- What the last input gave back. The MODEL's own, not state of the block. Log 3. -/
inductive Reply where
  /-- Nothing is returned. -/
  | none
  /-- The host move was refused: it did not happen (R31). -/
  | refused
  /-- What HREAD returns (R31). -/
  | reg (v : RegValue)
  /-- What HREADBUF returns (R31); the payload a payload region carries (R67, R68). -/
  | bytes (v : List Byte)
  /-- The value of `mt_decode` (R93). -/
  | messageType (v : Coded MessageType)
  /-- The value of `cmd_decode` (R95). -/
  | command (v : Coded CommandName)
  /-- The values of `ls_decode` and `ls_class` (R98). -/
  | loginStatus (v : Coded LoginStatus) (cls : BitVec 2)
  /-- The value of `hdr_decode` (R123). -/
  | header (h : Header)
  /-- The fields of a login response payload with their class (R160, R161). -/
  | login (r : LoginRegs)
deriving DecidableEq, Repr

/-- The machine's state. `h` to `lr` are the block's (`10_state.md`); `keyValid` and `key` are what the key port shows
(R26, log 2); `codes` is the instance's configuration, which nothing changes (R33, log 5); `inputs` and `reply` are the
model's own (log 1, log 3). -/
structure State where
  h : Header
  status : Byte
  mem : Memory
  consumed : Word17
  lr : LoginRegs
  keyValid : Bool
  key : Key
  codes : Codes
  inputs : List Input
  reply : Reply
deriving DecidableEq, Repr

/-- There is no fault: nothing in the spec stops the machine. Its errors are values of `STATUS.ERR`, and the next input
is taken as always (R182, R183). Log 16. -/
inductive Fault where
deriving DecidableEq, Repr

/-- Why a step has no meaning. -/
inductive Refusal where
  /-- Raised by `exec` for a row of the opcode table that has no meaning yet; no arm raises it now. Safe. -/
  | notModelled (mnemonic : String)
deriving DecidableEq, Repr

/-- The login record after reset (R32). -/
def LoginRegs.reset : LoginRegs where
  fields :=
    { status := 0, key := Vector.replicate 16 0, hwver := 0, fwMajor := 0, fwMinor := 0, serial := Vector.replicate 4 0 }
  cls := 0

/-- An instance with these code tables right after reset: the values of R32, which are INITQ's in the header registers.
The ports have no reset value (R32): no key is presented (log 2). No input waits and nothing has been returned (log 1,
log 3). -/
def State.resetWith (codes : Codes) : State where
  h := requestDefaults codes
  status := 0
  mem := { pbuf := [], fbuf := [] }
  consumed := 0
  lr := LoginRegs.reset
  keyValid := false
  key := Vector.replicate 16 0
  codes := codes
  inputs := []
  reply := .none

/-- The machine right after reset, its open codes at the spec's defaults (R8, R32, log 5). -/
def State.reset : State := State.resetWith defaultCodes

end Sys2Proof.Machine
end

