-- ==== Sys2Proof/Machine/Operands.lean ====
section
/-! DEFINITION. Where operands come from: the buffers' contents and lengths, the register file, the key port
(`10_state.md` R10, R11, R22, R23, R26; `20_memory.md` R40, R41). -/

namespace Sys2Proof.Machine

/-- The bytes of a buffer in order of their offsets. -/
def bytesOf (cells : List Host.Cell) : List Byte := cells.map Prod.snd

/-- A byte sequence as a buffer in canonical form: byte `i` at offset `i`. -/
def cellsOf (bytes : List Byte) : List Host.Cell := bytes.zipIdx.map (fun x => (x.2, x.1))

/-- What an offset that is not listed reads as: no value, it does not exist (R28, R29, R41). -/
def unlisted : Option Byte := none

/-- One byte of a buffer. -/
def readByte (cells : List Host.Cell) (a : Nat) : Option Byte :=
  match cells.find? (fun x => x.1 == a) with
  | some x => some x.2
  | none => unlisted

/-- The cells of one address space (R40). -/
def Memory.cells (m : Memory) : Space → List Host.Cell
  | .pbuf => m.pbuf
  | .fbuf => m.fbuf

/-- The capacity of an address space: `PMAX` or `FMAX` (R28, R29). -/
def spaceMax : Space → Nat
  | .pbuf => pmax
  | .fbuf => fmax

/-- Whether a buffer's cells are in canonical form: offsets 0, 1, 2, … in order. -/
def canonical (cells : List Host.Cell) : Bool := cells.map Prod.fst == List.range cells.length

/-- The memory is in canonical form and neither buffer is over its capacity (R22, R23, R28, R29). -/
def Memory.wf (m : Memory) : Bool :=
  canonical m.pbuf && canonical m.fbuf && decide (m.pbuf.length ≤ pmax) && decide (m.fbuf.length ≤ fmax)

/-- The content of a buffer as a byte sequence (R28, R29). -/
def State.content (s : State) (space : Space) : List Byte := bytesOf (s.mem.cells space)

/-- The byte of a buffer at an offset, if the offset exists (R41). -/
def State.readByte (s : State) (space : Space) (a : Nat) : Option Byte := Machine.readByte (s.mem.cells space) a

/-- `PLEN`: the length of `PBUF` by construction (R22). -/
def State.plen (s : State) : Half := BitVec.ofNat 16 (s.content .pbuf).length

/-- `FLEN`: the length of `FBUF` by construction (R23). -/
def State.flen (s : State) : Word17 := BitVec.ofNat 17 (s.content .fbuf).length

/-- The key port, sampled (R59, R105). -/
def State.keyPort (s : State) : KeyPort := { valid := s.keyValid, key := s.key }

/-- `MemRead(space, addr, n)`: no value outside the buffer's current length (R41). -/
def State.memRead (s : State) (space : Space) (addr n : Nat) : Option (List Byte) :=
  if addr + n ≤ (s.content space).length then some (slice (s.content space) addr n) else none

/-- The width of a header field register in bits (R10). -/
def hregWidth : HReg → Nat
  | .length => 16
  | .sof => 8
  | .msgType => 8
  | .flags => 8
  | .command => 8
  | .subCommand => 8
  | .unknown1 => 8
  | .unknown2 => 8

/-- Reading `h[i]` (R10); `h[0]` is hardwired (R11). -/
def readHReg (h : Header) : HReg → RegValue
  | .sof => .w8 sof
  | .length => .w16 h.length
  | .msgType => .w8 h.msgType
  | .flags => .w8 h.flags
  | .command => .w8 h.command
  | .subCommand => .w8 h.subCommand
  | .unknown1 => .w8 h.unknown1
  | .unknown2 => .w8 h.unknown2

/-- `h[i] <- v` for a value that fits the register (R31); a write to `h[0]` is ignored (R11). -/
def writeHReg (h : Header) (r : HReg) (v : Nat) : Header :=
  match r with
  | .sof => h
  | .length => { h with length := BitVec.ofNat 16 v }
  | .msgType => { h with msgType := BitVec.ofNat 8 v }
  | .flags => { h with flags := BitVec.ofNat 8 v }
  | .command => { h with command := BitVec.ofNat 8 v }
  | .subCommand => { h with subCommand := BitVec.ofNat 8 v }
  | .unknown1 => { h with unknown1 := BitVec.ofNat 8 v }
  | .unknown2 => { h with unknown2 := BitVec.ofNat 8 v }

/-- The value of any register (R10, R21 to R24, R27). -/
def State.readReg (s : State) : Reg → RegValue
  | .h r => readHReg s.h r
  | .status => .w8 s.status
  | .plen => .w16 s.plen
  | .flen => .w17 s.flen
  | .consumed => .w17 s.consumed
  | .lrStatus => .w8 s.lr.fields.status
  | .lrClass => .w2 s.lr.cls
  | .lrKey => .raw s.lr.fields.key.toList
  | .lrHwver => .w16 s.lr.fields.hwver
  | .lrFwMajor => .w8 s.lr.fields.fwMajor
  | .lrFwMinor => .w8 s.lr.fields.fwMinor
  | .lrSerial => .raw s.lr.fields.serial.toList

end Sys2Proof.Machine
end

