-- ==== Sys2Proof/Machine/Ops.lean ====
section
/-! DEFINITION. The named operations on the state: the updates of one piece each, taking an error
(`60_exceptions.md` R182), ending an operation well, and taking the next input. -/

namespace Sys2Proof.Machine

/-- Replace the header field registers `h[1]` to `h[7]`. -/
def State.setHeader (s : State) (h : Header) : State := { s with h := h }

/-- Overwrite all of `STATUS` (R21). -/
def State.setStatus (s : State) (w : Byte) : State := { s with status := w }

/-- `PBUF <- bytes`, and so `PLEN` (R9, R28). -/
def State.setPbuf (s : State) (bytes : List Byte) : State := { s with mem := { s.mem with pbuf := cellsOf bytes } }

/-- `FBUF <- bytes`, and so `FLEN` (R9, R29). -/
def State.setFbuf (s : State) (bytes : List Byte) : State := { s with mem := { s.mem with fbuf := cellsOf bytes } }

/-- Write `CONSUMED` (R24). -/
def State.setConsumed (s : State) (n : Nat) : State := { s with consumed := BitVec.ofNat 17 n }

/-- Write the login record (R27). -/
def State.setLr (s : State) (r : LoginRegs) : State := { s with lr := r }

/-- What the key provider drives from now on (R77, R105). -/
def State.setKeyPort (s : State) (p : KeyPort) : State := { s with keyValid := p.valid, key := p.key }

/-- The same block configured with these code tables (R33). No operation and no input calls it: it is how claims compare
two configurations. Log 5. -/
def State.setCodes (s : State) (c : Codes) : State := { s with codes := c }

/-- The inputs still to come. Log 1. -/
def State.setInputs (s : State) (l : List Input) : State := { s with inputs := l }

/-- What is given back. Log 3. -/
def State.setReply (s : State) (r : Reply) : State := { s with reply := r }

/-- `PBUF <- bytes` or `FBUF <- bytes` (R9): buffers are replaced as a whole (R40). -/
def State.setSpace (s : State) (space : Space) (bytes : List Byte) : State :=
  match space with
  | .pbuf => s.setPbuf bytes
  | .fbuf => s.setFbuf bytes

/-- `MemWrite(space, addr, n, v)` with `n` the length of `v`: defined inside the current length only, and then part of
replacing the whole buffer (R41). No operation and no host move of the spec calls it on its own. -/
def State.memWrite (s : State) (space : Space) (addr : Nat) (v : List Byte) : Option State :=
  let b := s.content space
  if addr + v.length ≤ b.length then
    some (s.setSpace space (b.take addr ++ v ++ b.drop (addr + v.length)))
  else none

/-- TAKING AN ERROR: `raise E` (R182). `STATUS` gets the code with all flags 0; no other register, buffer or length
changes; there is no handler, no vector and nothing saved. There is no return from an error either (R183): the next
operation overwrites `STATUS`. -/
def State.raise (s : State) (e : Err) : State := s.setStatus (statusOfError e)

/-- How an operation ends: all its results, or the one error (R182). -/
def State.finish {α : Type} (s : State) (r : Except Err α) (commit : α → State) : State :=
  match r with
  | .ok a => commit a
  | .error e => s.raise e

/-- Load a shape's defaults (R156, R157). -/
def State.loadShape (s : State) (defaults : Header) : State := (s.setHeader defaults).setStatus statusClear

/-- `IllegalOp`: the op code on the port is unassigned; no operand is read (R76, R178, R181). -/
def State.illegalOp (s : State) : State := s.raise .illegalOp

/-- The next input and the state in which it happens: the list is one shorter and nothing has been returned yet. -/
def State.fetch (s : State) : Option (Input × State) :=
  match s.inputs with
  | [] => none
  | i :: rest => some (i, (s.setInputs rest).setReply .none)

end Sys2Proof.Machine
end

