-- ==== Sys2Proof/Machine/Login.lean ====
section
/-! DEFINITION. LGN: parse `PBUF` as a login response payload (`44_login_and_system_ops.md` R160 to R164). -/

namespace Sys2Proof.Machine

/-- The login record of parsed fields: the raw bytes and the class of the status byte (R161). -/
def loginRegs (c : Codes) (f : LoginFields) : LoginRegs := { fields := f, cls := lsClass c f.status }

/-- What a successful LGN writes (R161): every `LR` register and `STATUS`. -/
def State.commitLgn (s : State) (f : LoginFields) : State :=
  (s.setLr (loginRegs s.codes f)).setStatus (statusOfLogin (loginRegs s.codes f).cls)

/-- LGN (R161). It reads `PBUF` alone: not the header registers, not the key port (R162). -/
def execLgn (s : State) : Host.Outcome State Fault Refusal :=
  .next (s.finish (loginParse (s.content .pbuf)) s.commitLgn)

end Sys2Proof.Machine
end

