-- ==== Sys2Proof/Machine/Formats.lean ====
section
/-! DEFINITION. The rows of the opcode table that are encodings of data, not operations. "Each row names the rule that
gives its semantics" (`30_encoding.md` R79), and that rule is a pure function. The meaning of such a row is the value
that function has on the encoding, given back in `State.reply`; no state of the block changes, but that a function that
raises an error raises it (R9, R182). No op code selects one of these rows (R75, R77), so `step` never runs one. Log 7. -/

namespace Sys2Proof.Machine

/-- A pure function's value is given back and nothing else happens. -/
def State.answer (s : State) (r : Reply) : Host.Outcome State Fault Refusal := .next (s.setReply r)

/-- The bytes a payload region carries are given back, or the region's error is taken (R110, R177, R182). -/
def State.answerRegion (s : State) (r : Except Err (List Byte)) : Host.Outcome State Fault Refusal :=
  .next (s.finish r (fun p => s.setReply (.bytes p)))

/-- `mt_decode` of the code of a name (R91, R93). -/
def State.answerMessageType (s : State) (n : MessageType) : Host.Outcome State Fault Refusal :=
  s.answer (.messageType (mtDecode s.codes (mtCode s.codes n)))

/-- `cmd_decode` of the code of a name (R94, R95). -/
def State.answerCommand (s : State) (n : CommandName) : Host.Outcome State Fault Refusal :=
  s.answer (.command (cmdDecode s.codes (cmdCode s.codes n)))

/-- `ls_decode` and `ls_class` of the code of a name (R97, R98). -/
def State.answerLoginStatus (s : State) (n : LoginStatus) : Host.Outcome State Fault Refusal :=
  s.answer (.loginStatus (lsDecode s.codes (lsCode s.codes n)) (lsClass s.codes (lsCode s.codes n)))

/-- FRAME.HDR16: the fields `hdr_decode` returns (R61, R123). -/
def execFrameHdr16 (fields : Header) (s : State) : Host.Outcome State Fault Refusal := s.answer (.header fields)

/-- FRAME.PAYLOAD.RAW: exactly `length` raw bytes, no transform, the key port not consulted (R67, R137). -/
def execFramePayloadRaw (payload : List Byte) (s : State) : Host.Outcome State Fault Refusal :=
  s.answerRegion (decodeRaw payload.length payload)

/-- FRAME.PAYLOAD.CIPH: the ciphertext block decrypted with the key presented and truncated to `length` (R68, R140);
`MissingKey` with no key, `PayloadTruncated` with too short a block (R110, R177). -/
def execFramePayloadCiph (length : Half) (block : List Byte) (s : State) : Host.Outcome State Fault Refusal :=
  s.answerRegion (decodeCiph Config.cipher s.keyPort length.toNat block)

/-- message_type.ip_response (R91, R93). -/
def execMessageTypeIpResponse (s : State) : Host.Outcome State Fault Refusal :=
  s.answerMessageType .ipResponse

/-- message_type.serial_passthrough_response (R91, R93). -/
def execMessageTypeSerialPassthroughResponse (s : State) : Host.Outcome State Fault Refusal :=
  s.answerMessageType .serialPassthroughResponse

/-- message_type.ip_request (R91, R93). -/
def execMessageTypeIpRequest (s : State) : Host.Outcome State Fault Refusal :=
  s.answerMessageType .ipRequest

/-- message_type.serial_passthrough_request (R91, R93). -/
def execMessageTypeSerialPassthroughRequest (s : State) : Host.Outcome State Fault Refusal :=
  s.answerMessageType .serialPassthroughRequest

/-- command.ip_authentication (R94, R95). -/
def execCommandIpAuthentication (s : State) : Host.Outcome State Fault Refusal :=
  s.answerCommand .ipAuthentication

/-- command.F2 (R94, R95). -/
def execCommandF2 (s : State) : Host.Outcome State Fault Refusal :=
  s.answerCommand .f2

/-- command.F3 (R94, R95). -/
def execCommandF3 (s : State) : Host.Outcome State Fault Refusal :=
  s.answerCommand .f3

/-- command.F4 (R94, R95). -/
def execCommandF4 (s : State) : Host.Outcome State Fault Refusal :=
  s.answerCommand .f4

/-- command.F5 (R94, R95). -/
def execCommandF5 (s : State) : Host.Outcome State Fault Refusal :=
  s.answerCommand .f5

/-- command.F8 (R94, R95). -/
def execCommandF8 (s : State) : Host.Outcome State Fault Refusal :=
  s.answerCommand .f8

/-- command.FB (R94, R95). -/
def execCommandFB (s : State) : Host.Outcome State Fault Refusal :=
  s.answerCommand .fb

/-- command.panel_communication (R94, R95). -/
def execCommandPanelCommunication (s : State) : Host.Outcome State Fault Refusal :=
  s.answerCommand .panelCommunication

/-- login_status.success (R97, R98). -/
def execLoginStatusSuccess (s : State) : Host.Outcome State Fault Refusal :=
  s.answerLoginStatus .success

/-- login_status.invalid_password (R97, R98). -/
def execLoginStatusInvalidPassword (s : State) : Host.Outcome State Fault Refusal :=
  s.answerLoginStatus .invalidPassword

/-- login_status.user_already_connected (R97, R98). -/
def execLoginStatusUserAlreadyConnected (s : State) : Host.Outcome State Fault Refusal :=
  s.answerLoginStatus .userAlreadyConnected

/-- login_status.user_already_connected1 (R97, R98). -/
def execLoginStatusUserAlreadyConnected1 (s : State) : Host.Outcome State Fault Refusal :=
  s.answerLoginStatus .userAlreadyConnected1

/-- LOGIN25: the fields by offset and the class of the status byte, as LGN finds them (R160, R161). -/
def execLogin25 (fields : LoginFields) (s : State) : Host.Outcome State Fault Refusal :=
  s.answer (.login (loginRegs s.codes fields))

end Sys2Proof.Machine
end

