-- ==== Sys2Proof/Machine/MessageCodec.lean ====
section
/-! DEFINITION. The Message Codec: ENC and DEC (`43_message_codec.md` R135 to R152). -/

namespace Sys2Proof.Machine

/-- What ENC commits (R138). -/
structure EncResult where
  length : Half
  frame : List Byte
deriving DecidableEq, Repr

/-- The computation of ENC (R138) on its operands: the header field registers, the payload and its length, the key
port. `H.LENGTH` is not an operand: `length` is replaced by `n` (R121). -/
def encResult (c : Cipher) (port : KeyPort) (h : Header) (p : List Byte) (n : Half) : Except Err EncResult :=
  match encodeRegion c port h.encrypt p with
  | .error e => .error e
  | .ok body => .ok { length := n, frame := hdrEncode { h with length := n } ++ body }

/-- What DEC commits (R142). -/
structure DecResult where
  header : Header
  payload : List Byte
  used : Nat
deriving DecidableEq, Repr

/-- The computation of DEC (R142) on its operands, the bytes of `FBUF` and the key port. The errors come in the order of
R181: the header, the key, the length. -/
def decResult (c : Cipher) (port : KeyPort) (b : List Byte) : Except Err DecResult :=
  match hdrDecode b with
  | .error e => .error e
  | .ok h =>
    match decodeRegion c port h.encrypt h.length.toNat (b.drop hdrWire) with
    | .error e => .error e
    | .ok p => .ok { header := h, payload := p, used := hdrWire + regionLength h.encrypt h.length.toNat }

/-- What a successful ENC writes (R138): `H.LENGTH`, `FBUF` with `FLEN`, `STATUS`. -/
def State.commitEnc (s : State) (r : EncResult) : State :=
  ((s.setHeader { s.h with length := r.length }).setFbuf r.frame).setStatus (statusOfHeader s.codes s.h)

/-- What a successful DEC writes (R142): `h[1]` to `h[7]`, `PBUF` with `PLEN`, `CONSUMED`, `STATUS`. -/
def State.commitDec (s : State) (r : DecResult) : State :=
  (((s.setHeader r.header).setPbuf r.payload).setConsumed r.used).setStatus (statusOfHeader s.codes r.header)

/-- ENC (R138). -/
def execEnc (s : State) : Host.Outcome State Fault Refusal :=
  .next (s.finish (encResult Config.cipher s.keyPort s.h (s.content .pbuf) s.plen) s.commitEnc)

/-- DEC (R142). -/
def execDec (s : State) : Host.Outcome State Fault Refusal :=
  .next (s.finish (decResult Config.cipher s.keyPort (s.content .fbuf)) s.commitDec)

end Sys2Proof.Machine
end

