-- ==== Sys2Proof/Machine/Shapes.lean ====
section
/-! DEFINITION. INITQ and INITR: the two message shapes' defaults (`44_login_and_system_ops.md` R156 to R158). -/

namespace Sys2Proof.Machine

/-- INITQ (R156). -/
def execInitq (s : State) : Host.Outcome State Fault Refusal := .next (s.loadShape (requestDefaults s.codes))

/-- INITR (R157). -/
def execInitr (s : State) : Host.Outcome State Fault Refusal := .next (s.loadShape (responseDefaults s.codes))

end Sys2Proof.Machine
end

