-- ==== Sys2Proof/Machine/Dispatch.lean ====
section
/-! DEFINITION. The meaning of each row of the opcode table. -/

namespace Sys2Proof.Machine

def exec (i : Instr) (s : State) : Host.Outcome State Fault Refusal :=
  match i with
  | .initq => Sys2Proof.Machine.execInitq s
  | .initr => Sys2Proof.Machine.execInitr s
  | .enc => Sys2Proof.Machine.execEnc s
  | .dec => Sys2Proof.Machine.execDec s
  | .lgn => Sys2Proof.Machine.execLgn s
  | .frameHdr16 fields => Sys2Proof.Machine.execFrameHdr16 fields s
  | .framePayloadRaw payload => Sys2Proof.Machine.execFramePayloadRaw payload s
  | .framePayloadCiph length block => Sys2Proof.Machine.execFramePayloadCiph length block s
  | .messageTypeIpResponse => Sys2Proof.Machine.execMessageTypeIpResponse s
  | .messageTypeSerialPassthroughResponse => Sys2Proof.Machine.execMessageTypeSerialPassthroughResponse s
  | .messageTypeIpRequest => Sys2Proof.Machine.execMessageTypeIpRequest s
  | .messageTypeSerialPassthroughRequest => Sys2Proof.Machine.execMessageTypeSerialPassthroughRequest s
  | .commandIpAuthentication => Sys2Proof.Machine.execCommandIpAuthentication s
  | .commandF2 => Sys2Proof.Machine.execCommandF2 s
  | .commandF3 => Sys2Proof.Machine.execCommandF3 s
  | .commandF4 => Sys2Proof.Machine.execCommandF4 s
  | .commandF5 => Sys2Proof.Machine.execCommandF5 s
  | .commandF8 => Sys2Proof.Machine.execCommandF8 s
  | .commandFB => Sys2Proof.Machine.execCommandFB s
  | .commandPanelCommunication => Sys2Proof.Machine.execCommandPanelCommunication s
  | .loginStatusSuccess => Sys2Proof.Machine.execLoginStatusSuccess s
  | .loginStatusInvalidPassword => Sys2Proof.Machine.execLoginStatusInvalidPassword s
  | .loginStatusUserAlreadyConnected => Sys2Proof.Machine.execLoginStatusUserAlreadyConnected s
  | .loginStatusUserAlreadyConnected1 => Sys2Proof.Machine.execLoginStatusUserAlreadyConnected1 s
  | .login25 fields => Sys2Proof.Machine.execLogin25 fields s

end Sys2Proof.Machine
end

