-- ==== Sys2Proof/Machine/HostMoves.lean ====
section
/-! DEFINITION. What the host, the key provider and the reset input do between operations (`10_state.md` R31,
`41_encryption_transform.md` R105, `70_reset_and_hazards.md` R200). -/

namespace Sys2Proof.Machine

/-- Whether HWRITE of `v` to `h[r]` is refused: `v` is wider than the register; a write to `h[0]` never is (R31). -/
def hwriteRefused (r : HReg) (v : Nat) : Bool :=
  match r with
  | .sof => false
  | .length => decide (2 ^ hregWidth .length ≤ v)
  | .msgType => decide (2 ^ hregWidth .msgType ≤ v)
  | .flags => decide (2 ^ hregWidth .flags ≤ v)
  | .command => decide (2 ^ hregWidth .command ≤ v)
  | .subCommand => decide (2 ^ hregWidth .subCommand ≤ v)
  | .unknown1 => decide (2 ^ hregWidth .unknown1 ≤ v)
  | .unknown2 => decide (2 ^ hregWidth .unknown2 ≤ v)

/-- A host move other than START (R31). A refused move does not happen and changes nothing; the host sees that it was
refused (log 9). No host move writes `STATUS`. -/
def applyMove (m : HostMove) (s : State) : State :=
  match m with
  | .hread r => s.setReply (.reg (s.readReg r))
  | .hwrite r v => if hwriteRefused r v then s.setReply .refused else s.setHeader (writeHReg s.h r v)
  | .hload space bytes =>
    if bytes.length ≤ spaceMax space then s.setSpace space bytes else s.setReply .refused
  | .hreadbuf space addr n =>
    match s.memRead space addr n with
    | some b => s.setReply (.bytes b)
    | none => s.setReply .refused

/-- The key provider presents this key from now on (R77, R105). -/
def presentKey (k : Key) (s : State) : State := s.setKeyPort { valid := true, key := k }

/-- The key provider presents no key from now on; what stands on `KEY` is then not read by anything (R77, R105). -/
def presentNoKey (s : State) : State := s.setKeyPort { valid := false, key := s.key }

/-- The reset input (R200): every piece of the block's state takes its value of R32. The ports are driven from outside
and have no reset value (R32), so the key port shows what it showed; the inputs to come are the host's; the code tables
are the instance's configuration (R33). Log 11. -/
def applyReset (s : State) : State := ((State.resetWith s.codes).setKeyPort s.keyPort).setInputs s.inputs

end Sys2Proof.Machine
end

