-- ==== Sys2Proof/Machine/Step.lean ====
section
/-! DEFINITION. One step: the next input happens, whole (`20_memory.md` R49, R53; `70_reset_and_hazards.md` R205). -/

namespace Sys2Proof.Machine

/-- One step. With no input the block is idle and holds its state (R193, log 10). An op code starts its operation, which
runs to its end (R205), or takes `IllegalOp` if it is not assigned (R76). -/
def step (s : State) : Host.Outcome State Fault Refusal :=
  match s.fetch with
  | none => .next s
  | some (.start op, t) =>
    match decodeOp op with
    | .ok i => exec i t
    | .error _ => .next t.illegalOp
  | some (.move m, t) => .next (applyMove m t)
  | some (.key k, t) => .next (presentKey k t)
  | some (.noKey, t) => .next (presentNoKey t)
  | some (.reset, t) => .next (applyReset t)

/-- The state in which the host presents this word on the `OP` port next (R25, R31): START with it is the first input.
An instruction of this machine is one byte, so the number of bits does not matter. Log 1. -/
def State.withFetchWord (s : State) (_nbits w : Nat) : State :=
  s.setInputs (.start (BitVec.ofNat 8 w) :: s.inputs)

end Sys2Proof.Machine
end

