-- ==== Sys2Proof/Safety.lean ====
section
/-! DEFINITION. What holds of every state a run reaches: the invariant of the machine, in the terms claims use. -/

namespace Sys2Proof.Machine

/-- `STATUS` is one that some operation leaves (R21): bits 3 and 7 are 0; `ERR` is 0 to 4; with an error all flags are
0; `UNK_LS` and the two other flags are never 1 together, since no operation sets both. -/
def StatusLegal (w : Byte) : Prop :=
  w.getLsbD 3 = false ∧ w.getLsbD 7 = false ∧ (statusErr w).toNat ≤ 4 ∧
  (statusErr w ≠ 0 → statusUnkMt w = false ∧ statusUnkCmd w = false ∧ statusUnkLs w = false) ∧
  (statusUnkLs w = true → statusUnkMt w = false ∧ statusUnkCmd w = false)

/-- `CONSUMED` is 0 (no DEC has succeeded) or the length of a frame, 16 to 65552 (R24, R60). -/
def ConsumedLegal (c : Word17) : Prop := c = 0 ∨ (hdrWire ≤ c.toNat ∧ c.toNat ≤ fmax)

/-- A value that was given back is in the normal form of R92: no `Unknown` byte in it is a code. -/
def ReplyNormal (c : Codes) : Reply → Prop
  | .none => True
  | .refused => True
  | .reg _ => True
  | .bytes _ => True
  | .messageType v => mtNormal c v = v
  | .command v => cmdNormal c v = v
  | .loginStatus v _ => lsNormal c v = v
  | .header _ => True
  | .login _ => True

/-- The invariant: the buffers are canonical and within their capacities (R22, R23, R28, R29), `STATUS` is legal (R21),
`CONSUMED` is legal (R24), the login record is still that of reset (R32) or `LR.CLASS` is the class of `LR.STATUS`
(R27, R98), the code tables are bijections (R90), and what was given back is in normal form (R92). -/
structure Inv (s : State) : Prop where
  memory : s.mem.wf = true
  status : StatusLegal s.status
  consumed : ConsumedLegal s.consumed
  login : s.lr = LoginRegs.reset ∨ s.lr.cls = lsClass s.codes s.lr.fields.status
  codes : s.codes.wf = true
  reply : ReplyNormal s.codes s.reply

/-- Every offset of a buffer reads as before: the same byte, or still no byte. -/
def SameBuffer (space : Space) (s t : State) : Prop := ∀ a, t.readByte space a = s.readByte space a

/-- What stands outside the block is as before: the key port, the configuration, the inputs to come, what was given
back. -/
def SameOutside (s t : State) : Prop :=
  t.keyValid = s.keyValid ∧ t.key = s.key ∧ t.codes = s.codes ∧ t.inputs = s.inputs ∧ t.reply = s.reply

/-- `t` is what a successful ENC of header fields and payload region `body` leaves, from `s` (R138): what is written
holds the new values, what is not written is as in `s`. -/
structure EncCommits (s t : State) (body : List Byte) : Prop where
  length : t.h = { s.h with length := s.plen }
  frame : t.content .fbuf =
    [0xAA, s.plen.extractLsb' 0 8, s.plen.extractLsb' 8 8, s.h.msgType, s.h.flags, s.h.command, s.h.subCommand,
      s.h.unknown1, s.h.unknown2, 0xEE, 0xEE, 0xEE, 0xEE, 0xEE, 0xEE, 0xEE] ++ body
  flen : t.flen.toNat = 16 + body.length
  status : t.status =
    statusWord 0 (mtDecode s.codes s.h.msgType).isUnknown (cmdDecode s.codes s.h.command).isUnknown false
  payload : SameBuffer .pbuf s t
  plen : t.plen = s.plen
  consumed : t.consumed = s.consumed
  login : t.lr = s.lr
  outside : SameOutside s t

/-- `t` is what a successful DEC that found the fields `h` and the payload `p` in a frame of `used` bytes leaves, from
`s` (R142). -/
structure DecCommits (s t : State) (h : Header) (p : List Byte) (used : Nat) : Prop where
  header : t.h = h
  payload : t.content .pbuf = p
  plen : t.plen = h.length
  plenNat : p.length = h.length.toNat
  consumed : t.consumed.toNat = used
  status : t.status =
    statusWord 0 (mtDecode s.codes h.msgType).isUnknown (cmdDecode s.codes h.command).isUnknown false
  frame : SameBuffer .fbuf s t
  flen : t.flen = s.flen
  login : t.lr = s.lr
  outside : SameOutside s t

end Sys2Proof.Machine
end

