-- ==== Sys2Proof/Certificates/Slice0/Obligations.lean ====
section
/-! DEFINITION. Statements about PAI-FRAMER for the provers. Each formalises a rule of spec/ or says in its docstring
that it rests on a choice of the model and names the log entry. The operations' entries in `exec` are reached by a run
through `Obligations.StepRunsDecodedOperation`. -/

open Sys2Proof Sys2Proof.Machine

/-! ### Starting an operation, decoding, encoding -/

/-- R31 (`START op`): the host presents an op code; the operation it decodes to runs on the state as it is, with the
input taken off the list and nothing yet given back (the model's own fields, log 1 and log 3). -/
def Obligations.StepRunsDecodedOperation : Prop :=
  ∀ (s : State) (op : Byte) (rest : List Input) (i : Instr),
    s.inputs = .start op :: rest → decodeOp op = .ok i →
    step s = exec i ((s.setInputs rest).setReply .none)

/-- R76, R178: every op code but the five of R75 changes nothing but `STATUS`, which reports `IllegalOp`. That the input
is taken off the list and the reply is then `none` are the model's choices (log 1, log 3). -/
def Obligations.UnassignedOpTakesIllegalOp : Prop :=
  ∀ (s : State) (op : Byte) (rest : List Input),
    s.inputs = .start op :: rest → op ∉ [0x01#8, 0x02#8, 0x10#8, 0x11#8, 0x20#8] →
    step s = .next { s with status := 0x04, inputs := rest, reply := .none }

/-- R75, R61, R91, R94, R97: words written out from the spec's encodings decode to the rows they stand for; the three
enumeration codes are ones the source gives, in an instance whose other codes are the spec's defaults (log 5). -/
def Obligations.SampleWordsDecode : Prop :=
  decodeOp 0x01 = .ok .initq ∧ decodeOp 0x02 = .ok .initr ∧ decodeOp 0x10 = .ok .enc ∧ decodeOp 0x11 = .ok .dec ∧
  decodeOp 0x20 = .ok .lgn ∧ decodeTableWord 8 0x10 = some .enc ∧
  decodeAt defaultCodes .header [0xAA, 0x2C, 0x01, 0x03, 0x08, 0x00, 0x11, 0x22, 0x33, 0, 0, 0, 0, 0, 0, 0] =
    .ok (.frameHdr16
      { length := 300, msgType := 0x03, flags := 0x08, command := 0x00
        subCommand := 0x11, unknown1 := 0x22, unknown2 := 0x33 }) ∧
  decodeAt defaultCodes .messageType [0x03] = .ok .messageTypeIpRequest ∧
  decodeAt defaultCodes .command [0x00] = .ok .commandPanelCommunication ∧
  decodeAt defaultCodes .loginStatus [0x04] = .ok .loginStatusUserAlreadyConnected1

/-- Decode and encode agree: at the place where a row stands, decoding the encoding of a well-formed row gives the row
back, every field at every value, for all code tables that are bijections (R90). -/
def Obligations.DecodeEncodeAgree : Prop :=
  ∀ (c : Codes) (i : Instr), c.wf = true → i.wellFormed = true → decodeAt c i.place (encode c i) = .ok i

/-- One-byte codes are a bijection at each place (R75, R90). What decodes to a row is that row's encoding, and the row
stands at that place, so no row has two codes there; and, the code tables being bijections, no two rows share a code. -/
def Obligations.OneByteCodesEncodeBack : Prop :=
  (∀ (c : Codes) (place : Place) (b : List Byte) (i : Instr),
    place ∈ [Place.opPort, .messageType, .command, .loginStatus] →
    decodeAt c place b = .ok i → encode c i = b ∧ i.place = place ∧ i.wellFormed = true) ∧
  (∀ (c : Codes) (i j : Instr), c.wf = true →
    i.place ∈ [Place.opPort, .messageType, .command, .loginStatus] → i.place = j.place → encode c i = encode c j → i = j)

/-! ### The invariant and reset -/

/-- The invariant (canonical buffers within their capacities, legal `STATUS`, legal `CONSUMED`, `LR` as at reset or
`LR.CLASS` the class of `LR.STATUS`, code tables that are bijections, a reply in normal form) is kept by every step, from every state that has it. -/
def Obligations.StepKeepsInvariant : Prop :=
  ∀ s t : State, Inv s → step s = .next t → Inv t

/-- The state after reset has the invariant, for the spec's default codes and for all code tables that are bijections. -/
def Obligations.ResetMeetsInvariant : Prop :=
  Inv State.reset ∧ ∀ c : Codes, c.wf = true → Inv (State.resetWith c)

/-- R32: what every register reads after reset, and that both buffers are empty. -/
def Obligations.ResetValues : Prop :=
  State.reset.readReg (.h .sof) = .w8 0xAA ∧ State.reset.readReg (.h .length) = .w16 0x0000 ∧
  State.reset.readReg (.h .msgType) = .w8 0x03 ∧ State.reset.readReg (.h .flags) = .w8 0x09 ∧
  State.reset.readReg (.h .command) = .w8 0x00 ∧ State.reset.readReg (.h .subCommand) = .w8 0x00 ∧
  State.reset.readReg (.h .unknown1) = .w8 0x00 ∧ State.reset.readReg (.h .unknown2) = .w8 0x00 ∧
  State.reset.readReg .status = .w8 0x00 ∧ State.reset.readReg .plen = .w16 0 ∧
  State.reset.content .pbuf = [] ∧ State.reset.readReg .flen = .w17 0 ∧ State.reset.content .fbuf = [] ∧
  State.reset.readReg .consumed = .w17 0 ∧ State.reset.readReg .lrStatus = .w8 0x00 ∧
  State.reset.readReg .lrFwMajor = .w8 0x00 ∧ State.reset.readReg .lrFwMinor = .w8 0x00 ∧
  State.reset.readReg .lrClass = .w2 0 ∧ State.reset.readReg .lrKey = .raw (List.replicate 16 0x00) ∧
  State.reset.readReg .lrHwver = .w16 0x0000 ∧ State.reset.readReg .lrSerial = .raw (List.replicate 4 0x00)

/-- R200: asserting reset puts every register and both buffers at the value of R32, whatever they held. That the key
port, the code tables and the inputs to come are as before is the model's reading (log 11). -/
def Obligations.ResetInputRestoresTheBlock : Prop :=
  ∀ (s : State) (rest : List Input), s.inputs = .reset :: rest →
    ∃ t, step s = .next t ∧ (∀ r, t.readReg r = State.reset.readReg r) ∧
      (∀ space, t.content space = []) ∧ (∀ space a, t.readByte space a = none) ∧
      t.keyValid = s.keyValid ∧ t.key = s.key ∧ t.codes = s.codes ∧ t.inputs = rest

/-! ### The five operations -/

/-- R156: INITQ loads the Request shape's defaults and clears `STATUS`; nothing else changes. -/
def Obligations.InitqLoadsRequestShape : Prop :=
  ∀ s : State, exec .initq s = .next
    { s with
      h :=
        { length := 0x0000, msgType := 0x03, flags := 0x09, command := 0x00
          subCommand := 0x00, unknown1 := 0x00, unknown2 := 0x00 }
      status := 0x00 }

/-- R157: INITR loads the Response shape's defaults and clears `STATUS`; nothing else changes. The code of `ip_response`
is a parameter of the instance whose default is `0x01`, which the spec takes from general knowledge (log 5). -/
def Obligations.InitrLoadsResponseShape : Prop :=
  (∀ s : State, exec .initr s = .next
    { s with
      h :=
        { length := 0x0000, msgType := s.codes.ipResponse, flags := 0x09, command := 0x00
          subCommand := 0x00, unknown1 := 0x00, unknown2 := 0x03 }
      status := 0x00 }) ∧
  State.reset.codes.ipResponse = 0x01

/-- R138: ENC. With the encrypt bit and no key it takes `MissingKey`; else it writes the frame, `H.LENGTH` and `STATUS`
and nothing else, the payload region being the encrypted payload aligned to 16, or the payload as it is. What bytes the
cipher is handed is spelled out in `Obligations.EncHandsPaddedPayloadToTheCipher`. -/
def Obligations.EncFollowsItsRule : Prop :=
  ∀ s : State, s.mem.wf = true →
    ∃ t, exec .enc s = .next t ∧
      if s.h.flags.getLsbD 0 = true then
        if s.keyValid = false then t = { s with status := 0x02 }
        else EncCommits s t (pad16 (xfEncrypt Config.cipher (s.content .pbuf) s.key))
      else EncCommits s t (s.content .pbuf)

/-- R142: DEC. `InvalidHeader` for fewer than 16 bytes or another first byte than `0xAA`; then, with the encrypt bit,
`MissingKey` and `PayloadTruncated` in this order, or without it `PayloadTruncated`; else the fields by position, the
payload of exactly `length` bytes, the size of the frame and `STATUS` are written and nothing else. -/
def Obligations.DecFollowsItsRule : Prop :=
  (∀ s : State, ((s.content .fbuf).length < 16 ∨ (s.content .fbuf)[0]? ≠ some 0xAA) →
    exec .dec s = .next { s with status := 0x01 }) ∧
  (∀ (s : State) (lo hi mt fl cmd sub u1 u2 : Byte) (pad region : List Byte),
    s.content .fbuf = [0xAA, lo, hi, mt, fl, cmd, sub, u1, u2] ++ pad ++ region → pad.length = 7 →
    ∃ t, exec .dec s = .next t ∧
      let n := lo.toNat + 256 * hi.toNat
      let h : Header :=
        { length := BitVec.ofNat 16 n, msgType := mt, flags := fl, command := cmd
          subCommand := sub, unknown1 := u1, unknown2 := u2 }
      if fl.getLsbD 0 = true then
        if s.keyValid = false then t = { s with status := 0x02 }
        else if region.length < align16 n then t = { s with status := 0x03 }
        else ∃ hm, DecCommits s t h ((ciphDec Config.cipher s.key (region.take (align16 n)) hm).take n)
          (16 + align16 n)
      else
        if region.length < n then t = { s with status := 0x03 }
        else DecCommits s t h (region.take n) (16 + n))

/-- R161: LGN. Fewer than 25 bytes is `PayloadTruncated`; else every `LR` register gets its bytes by offset,
`LR.HWVER` big-endian, `LR.CLASS` by the cases of R98, later bytes ignored, `STATUS` reports an unknown class, and
nothing else is written. -/
def Obligations.LgnFollowsItsRule : Prop :=
  (∀ s : State, (s.content .pbuf).length < 25 → exec .lgn s = .next { s with status := 0x03 }) ∧
  (∀ (s : State) (st hw1 hw0 major minor : Byte) (key serial rest : List Byte),
    s.content .pbuf = [st] ++ key ++ [hw1, hw0, major, minor] ++ serial ++ rest → key.length = 16 → serial.length = 4 →
    ∃ t, exec .lgn s = .next t ∧
      t.lr.fields.status = st ∧
      t.lr.cls =
        (if st = s.codes.success then 0 else if st = s.codes.invalidPassword then 1
          else if st = 0x02 ∨ st = 0x04 then 2 else 3) ∧
      t.lr.fields.key.toList = key ∧
      t.lr.fields.hwver.toNat = 256 * hw1.toNat + hw0.toNat ∧ t.lr.fields.fwMajor = major ∧
      t.lr.fields.fwMinor = minor ∧ t.lr.fields.serial.toList = serial ∧
      t.status = statusWord 0 false false (t.lr.cls == 3) ∧
      t.h = s.h ∧ SameBuffer .pbuf s t ∧ SameBuffer .fbuf s t ∧ t.consumed = s.consumed ∧ SameOutside s t)

/-! ### Errors -/

/-- R175: among the operations only DEC reports `InvalidHeader`, and exactly when `FLEN` < 16 or `FBUF[0]` is not
`0xAA`; it records the code and nothing else. -/
def Obligations.InvalidHeaderExactlyWhen : Prop :=
  ∀ (i : Instr) (s t : State), i ∈ [Instr.initq, .initr, .enc, .dec, .lgn] → exec i s = .next t →
    (statusErr t.status = 1 ↔
      i = .dec ∧ ((s.content .fbuf).length < 16 ∨ (s.content .fbuf)[0]? ≠ some 0xAA)) ∧
    (statusErr t.status = 1 → t = { s with status := 0x01 })

/-- R176: `MissingKey` is reported by ENC and DEC alone, exactly when the encrypt bit is 1 (in `H.FLAGS` for ENC, in
byte 4 of a frame with a valid header for DEC) and no key is presented; then no frame is produced and no payload is
delivered: only `STATUS` changes. -/
def Obligations.MissingKeyExactlyWhen : Prop :=
  ∀ (i : Instr) (s t : State), i ∈ [Instr.initq, .initr, .enc, .dec, .lgn] → exec i s = .next t →
    (statusErr t.status = 2 ↔
      s.keyValid = false ∧
      ((i = .enc ∧ s.h.flags.getLsbD 0 = true) ∨
       (i = .dec ∧ 16 ≤ (s.content .fbuf).length ∧ (s.content .fbuf)[0]? = some 0xAA ∧
        ((s.content .fbuf).getD 4 0).getLsbD 0 = true))) ∧
    (statusErr t.status = 2 → t = { s with status := 0x02 })

/-- R177: `PayloadTruncated` is reported by LGN exactly when `PLEN` < 25, and by DEC exactly when the header is valid,
the key the frame needs is there, and `FBUF` is shorter than the frame; then only `STATUS` changes. -/
def Obligations.PayloadTruncatedExactlyWhen : Prop :=
  ∀ (i : Instr) (s t : State), i ∈ [Instr.initq, .initr, .enc, .dec, .lgn] → exec i s = .next t →
    let b := s.content .fbuf
    let n := (b.getD 1 0).toNat + 256 * (b.getD 2 0).toNat
    (statusErr t.status = 3 ↔
      (i = .lgn ∧ (s.content .pbuf).length < 25) ∨
      (i = .dec ∧ 16 ≤ b.length ∧ b[0]? = some 0xAA ∧
        (if (b.getD 4 0).getLsbD 0 = true then s.keyValid = true ∧ b.length < 16 + align16 n else b.length < 16 + n))) ∧
    (statusErr t.status = 3 → t = { s with status := 0x03 })

/-- R182: an operation that reports an error changes nothing but `STATUS`, which holds the code with all flags 0. -/
def Obligations.ErrorsChangeOnlyStatus : Prop :=
  ∀ (i : Instr) (s t : State), i ∈ [Instr.initq, .initr, .enc, .dec, .lgn] → exec i s = .next t →
    statusErr t.status ≠ 0 →
    t = { s with status := t.status } ∧ t.status = statusWord (statusErr t.status) false false false

/-- R181: which error is reported when several causes hold. An unassigned op code comes first whatever else holds; then
the header; then the key, whatever the length; then the length. -/
def Obligations.ErrorPriority : Prop :=
  (∀ (s : State) (op : Byte) (rest : List Input),
    s.inputs = .start op :: rest → op ∉ [0x01#8, 0x02#8, 0x10#8, 0x11#8, 0x20#8] →
    ∃ t, step s = .next t ∧ t.status = 0x04) ∧
  (∀ s : State, ((s.content .fbuf).length < 16 ∨ (s.content .fbuf)[0]? ≠ some 0xAA) →
    ∃ t, exec .dec s = .next t ∧ t.status = 0x01) ∧
  (∀ s : State, 16 ≤ (s.content .fbuf).length → (s.content .fbuf)[0]? = some 0xAA →
    ((s.content .fbuf).getD 4 0).getLsbD 0 = true → s.keyValid = false →
    ∃ t, exec .dec s = .next t ∧ t.status = 0x02) ∧
  (∀ s : State, s.h.flags.getLsbD 0 = true → s.keyValid = false → ∃ t, exec .enc s = .next t ∧ t.status = 0x02) ∧
  (∀ s : State, 16 ≤ (s.content .fbuf).length → (s.content .fbuf)[0]? = some 0xAA →
    (((s.content .fbuf).getD 4 0).getLsbD 0 = true → s.keyValid = true) →
    (s.content .fbuf).length < 16 + regionLength (((s.content .fbuf).getD 4 0).getLsbD 0)
      (((s.content .fbuf).getD 1 0).toNat + 256 * ((s.content .fbuf).getD 2 0).toNat) →
    ∃ t, exec .dec s = .next t ∧ t.status = 0x03)

/-! ### Enumerations -/

/-- R179, R93, R95, R96: unknown enumeration codes are flagged and are no errors. After an ENC or a DEC that reports no
error, `UNK_MT` and `UNK_CMD` say exactly whether `H.MSG_TYPE` and `H.COMMAND` are outside the instance's code tables,
`UNK_LS` is 0, and bits 3 and 7 are 0; the tables are those of R91 and R94: the source's codes, and the instance's in
place of the open ones (log 5). Whatever stands in `H.MSG_TYPE` and `H.COMMAND`, an ENC of a clear message reports no
error, and any ENC the same as with other values there; whatever bytes 3 and 5 of the frame are, a DEC of a long enough
clear frame reports no error, and any DEC the same as with other bytes there. After an LGN that reports no error
`LR.CLASS` is 3 and `UNK_LS` is 1 exactly when the status byte is outside the table of R97 (R98, R161), the other flags
are 0, and an LGN of at least 25 bytes reports no error whatever the status byte is. -/
def Obligations.UnknownCodesAreFlaggedNotErrors : Prop :=
  (∀ (i : Instr) (s t : State), i ∈ [Instr.enc, .dec] → exec i s = .next t → statusErr t.status = 0 →
    (statusUnkMt t.status = true ↔
      t.h.msgType ∉
        [s.codes.ipResponse, s.codes.serialPassthroughResponse, 0x03#8, s.codes.serialPassthroughRequest]) ∧
    (statusUnkCmd t.status = true ↔
      t.h.command ∉
        [s.codes.ipAuthentication, s.codes.f2, s.codes.f3, s.codes.f4, s.codes.f5, s.codes.f8, s.codes.fb, 0x00#8]) ∧
    statusUnkLs t.status = false ∧ t.status.getLsbD 3 = false ∧ t.status.getLsbD 7 = false) ∧
  (∀ s : State, s.h.flags.getLsbD 0 = false → ∃ t, exec .enc s = .next t ∧ statusErr t.status = 0) ∧
  (∀ (s t : State) (mt cmd : Byte), exec .enc s = .next t →
    ∃ u, exec .enc (s.setHeader { s.h with msgType := mt, command := cmd }) = .next u ∧
      statusErr u.status = statusErr t.status) ∧
  (∀ (s : State) (lo hi mt fl cmd sub u1 u2 : Byte) (pad region : List Byte),
    s.content .fbuf = [0xAA, lo, hi, mt, fl, cmd, sub, u1, u2] ++ pad ++ region → pad.length = 7 →
    fl.getLsbD 0 = false → lo.toNat + 256 * hi.toNat ≤ region.length →
    ∃ t, exec .dec s = .next t ∧ statusErr t.status = 0 ∧ t.h.msgType = mt ∧ t.h.command = cmd) ∧
  (∀ (s t : State) (mt cmd : Byte), exec .dec s = .next t →
    ∃ u, exec .dec (s.setFbuf (((s.content .fbuf).set 3 mt).set 5 cmd)) = .next u ∧
      statusErr u.status = statusErr t.status) ∧
  (∀ s t : State, exec .lgn s = .next t → statusErr t.status = 0 →
    (t.lr.cls = 3 ↔ t.lr.fields.status ∉ [s.codes.success, s.codes.invalidPassword, 0x02#8, 0x04#8]) ∧
    (statusUnkLs t.status = true ↔
      t.lr.fields.status ∉ [s.codes.success, s.codes.invalidPassword, 0x02#8, 0x04#8]) ∧
    statusUnkMt t.status = false ∧ statusUnkCmd t.status = false ∧ t.status.getLsbD 3 = false ∧
    t.status.getLsbD 7 = false) ∧
  (∀ s : State, 25 ≤ (s.content .pbuf).length →
    ∃ t, exec .lgn s = .next t ∧ statusErr t.status = 0 ∧ (s.content .pbuf)[0]? = some t.lr.fields.status)

/-- R98: the two duplicate codes `0x02` and `0x04` both decode to the non-error class "already connected" in an LGN of
any payload of at least 25 bytes, for all code tables that are bijections (R90). -/
def Obligations.AlreadyConnectedIsNoError : Prop :=
  ∀ (s : State) (st : Byte) (p : List Byte), s.codes.wf = true →
    s.content .pbuf = st :: p → 24 ≤ p.length → st ∈ [0x02#8, 0x04#8] →
    ∃ t, exec .lgn s = .next t ∧ t.lr.cls = 2 ∧ t.lr.fields.status = st ∧ t.status = 0x00

/-- R99: for all code tables that are bijections `decode(encode(name)) = name` for the 16 names; and for all code tables
`encode(decode(b)) = b` for every byte. -/
def Obligations.EnumerationSymmetry : Prop :=
  (∀ c : Codes, c.wf = true →
    (∀ n : MessageType, mtDecode c (mtEncode c (.known n)) = .known n) ∧
    (∀ n : CommandName, cmdDecode c (cmdEncode c (.known n)) = .known n) ∧
    (∀ n : LoginStatus, lsDecode c (lsEncode c (.known n)) = .known n)) ∧
  (∀ (c : Codes) (b : Byte),
    mtEncode c (mtDecode c b) = b ∧ cmdEncode c (cmdDecode c b) = b ∧ lsEncode c (lsDecode c b) = b)

/-- R100: the values of `H.MSG_TYPE` and `H.COMMAND` reach the frame of ENC as bytes 3 and 5 and change no other byte of
it, no error, and no other register. -/
def Obligations.EnumerationsTouchNothingElse : Prop :=
  ∀ (s t : State) (mt cmd : Byte), exec .enc s = .next t → statusErr t.status = 0 →
    ∃ u, exec .enc (s.setHeader { s.h with msgType := mt, command := cmd }) = .next u ∧
      statusErr u.status = 0 ∧ u.content .fbuf = ((t.content .fbuf).set 3 mt).set 5 cmd ∧
      u.h = { t.h with msgType := mt, command := cmd } ∧ u.content .pbuf = t.content .pbuf ∧
      u.consumed = t.consumed ∧ u.lr = t.lr

/-! ### What an operation does not depend on -/

/-- R206, R121: a value the host wrote to `H.LENGTH` is never used: an ENC that reports no error ends in the same state
whatever stands there. -/
def Obligations.StaleLengthNeverUsed : Prop :=
  ∀ (s t : State) (v : Nat), exec .enc s = .next t → statusErr t.status = 0 →
    exec .enc (s.setHeader (writeHReg s.h .length v)) = .next t ∧ t.h.length = s.plen

/-- R105: when `KEY_VALID` = 0 the value on `KEY` is not read by anything: another value there changes no outcome. -/
def Obligations.KeyNotReadWithoutKeyValid : Prop :=
  ∀ (i : Instr) (s t : State) (k : Key), s.keyValid = false → exec i s = .next t →
    exec i (s.setKeyPort { valid := false, key := k }) = .next (t.setKeyPort { valid := false, key := k })

/-- R137, R110: with the encrypt bit 0 (in `H.FLAGS` for ENC, in byte 4 of the frame for DEC) the key port is not looked
at: what it shows changes no outcome. -/
def Obligations.ClearMessagesIgnoreTheKeyPort : Prop :=
  ∀ (s t : State) (port : KeyPort),
    (s.h.flags.getLsbD 0 = false → exec .enc s = .next t → exec .enc (s.setKeyPort port) = .next (t.setKeyPort port)) ∧
    (((s.content .fbuf).getD 4 0).getLsbD 0 = false → exec .dec s = .next t →
      exec .dec (s.setKeyPort port) = .next (t.setKeyPort port))

/-- R183, R21: an operation started while `STATUS` holds anything runs exactly as it would otherwise, and overwrites all
of `STATUS`. -/
def Obligations.OperationsIgnoreOldStatus : Prop :=
  ∀ (i : Instr) (s t : State) (w : Byte), i ∈ [Instr.initq, .initr, .enc, .dec, .lgn] → exec i s = .next t →
    exec i (s.setStatus w) = .next t

/-- R145: bytes of `FBUF` at offsets from `CONSUMED` on are not looked at: with any other bytes, or none, in their place
a DEC that succeeds gives the same header, payload, `CONSUMED` and `STATUS`. -/
def Obligations.DecIgnoresBytesAfterFrame : Prop :=
  ∀ (s t : State) (tail : List Byte), exec .dec s = .next t → statusErr t.status = 0 →
    ∃ u, exec .dec (s.setFbuf ((s.content .fbuf).take t.consumed.toNat ++ tail)) = .next u ∧
      u.h = t.h ∧ u.content .pbuf = t.content .pbuf ∧ u.consumed = t.consumed ∧ u.status = t.status

/-! ### Laws of the codec -/

/-- R127: decoding what `hdr_encode` wrote, with any bytes after it, gives the fields back; and encoding decoded fields
gives the first nine bytes back with the pad `0xEE`. -/
def Obligations.HeaderRoundTrip : Prop :=
  (∀ (h : Header) (t : List Byte), hdrDecode (hdrEncode h ++ t) = .ok h) ∧
  (∀ (b : List Byte) (h : Header), hdrDecode b = .ok h → hdrEncode h = b.take 9 ++ List.replicate 7 0xEE)

/-- R112: for every cipher that meets the contract of R106, `decrypt(encrypt(p, k), k, len(p)) = p`. -/
def Obligations.TransformRoundTrip : Prop :=
  ∀ (c : Cipher) (p : List Byte) (k : Key),
    ∃ hm, xfDecrypt c (xfEncrypt c p k) hm k p.length = p

/-- R111, R209: DEC of an encrypted frame that is long enough succeeds with every key presented: the header is
delivered, and exactly `length` bytes of payload, whatever they are. -/
def Obligations.AnyKeyDelivers : Prop :=
  ∀ (s : State) (h : Header), hdrDecode (s.content .fbuf) = .ok h → s.keyValid = true → h.flags.getLsbD 0 = true →
    16 + align16 h.length.toNat ≤ (s.content .fbuf).length →
    ∃ t, exec .dec s = .next t ∧ statusErr t.status = 0 ∧ t.h = h ∧ (t.content .pbuf).length = h.length.toNat

/-- R146: a clear message encoded on one instance and decoded on another (or the same) arrives as it was: header fields,
payload, `H.LENGTH` the payload's length, no error, the whole frame consumed, whatever either key port shows. -/
def Obligations.ClearMessageRoundTrip : Prop :=
  ∀ s u : State, s.mem.wf = true → s.h.flags.getLsbD 0 = false →
    ∃ t v, exec .enc s = .next t ∧ exec .dec (u.setFbuf (t.content .fbuf)) = .next v ∧
      v.h = { s.h with length := s.plen } ∧ v.content .pbuf = s.content .pbuf ∧ statusErr v.status = 0 ∧
      v.consumed = t.flen ∧ v.lr = u.lr

/-- R147: an encrypted message encoded on one instance and decoded on another (or the same) that is presented the same
key arrives as it was, for every cipher that meets the contract of R106. -/
def Obligations.EncryptedMessageRoundTrip : Prop :=
  ∀ s u : State, s.mem.wf = true → s.h.flags.getLsbD 0 = true → s.keyValid = true → u.keyValid = true →
    u.key = s.key →
    ∃ t v, exec .enc s = .next t ∧ exec .dec (u.setFbuf (t.content .fbuf)) = .next v ∧
      v.h = { s.h with length := s.plen } ∧ v.content .pbuf = s.content .pbuf ∧ statusErr v.status = 0 ∧
      v.consumed = t.flen ∧ v.lr = u.lr

/-- R148, R149, R152: of every frame ENC produces, bytes 1 and 2 are the payload's length before encryption,
little-endian; bytes 9 to 15 are `0xEE`; its length is 16 plus `PLEN`, or with the encrypt bit 16 plus `align16(PLEN)`,
which is a multiple of 16. -/
def Obligations.EncodedFrameShape : Prop :=
  ∀ s t : State, s.mem.wf = true → exec .enc s = .next t → statusErr t.status = 0 →
    (∃ lo hi, t.readByte .fbuf 1 = some lo ∧ t.readByte .fbuf 2 = some hi ∧
      lo.toNat + 256 * hi.toNat = (s.content .pbuf).length) ∧
    (∀ a, 9 ≤ a → a < 16 → t.readByte .fbuf a = some 0xEE) ∧
    (if s.h.flags.getLsbD 0 = true then
      t.flen.toNat = 16 + align16 (s.content .pbuf).length ∧ t.flen.toNat % 16 = 0
    else t.flen.toNat = 16 + (s.content .pbuf).length)

/-- R151: encoding again a clear frame that DEC accepted gives the frame back, but for the pad bytes and the bytes after
the frame. -/
def Obligations.ReencodeClearFrame : Prop :=
  ∀ s t : State, exec .dec s = .next t → statusErr t.status = 0 → t.h.flags.getLsbD 0 = false →
    ∃ u, exec .enc t = .next u ∧
      u.content .fbuf = (s.content .fbuf).take 9 ++ List.replicate 7 0xEE ++
        ((s.content .fbuf).drop 16).take t.h.length.toNat

/-- R28, R109: after a DEC that succeeds the host can read exactly `length` bytes of `PBUF`; nothing of the filler, nor
of what `PBUF` held before, is at any offset from there on. -/
def Obligations.DecExposesOnlyThePayload : Prop :=
  ∀ s t : State, exec .dec s = .next t → statusErr t.status = 0 →
    ∀ a, (t.readByte .pbuf a).isSome = true ↔ a < t.h.length.toNat

/-- R139, R143: an ENC or a DEC that succeeds, started again, ends in the same state. -/
def Obligations.RepeatedOperationIsStable : Prop :=
  ∀ (i : Instr) (s t : State), i ∈ [Instr.enc, .dec] → exec i s = .next t → statusErr t.status = 0 →
    exec i t = .next t

/-! ### Frames -/

/-- R156, R157, R161: INITQ, INITR and LGN store nothing in either buffer and leave `CONSUMED` and what is outside the
block; INITQ and INITR leave the login record, LGN leaves the header registers. -/
def Obligations.ShapesAndLoginFrame : Prop :=
  ∀ (i : Instr) (s t : State), i ∈ [Instr.initq, .initr, .lgn] → exec i s = .next t →
    SameBuffer .pbuf s t ∧ SameBuffer .fbuf s t ∧ t.plen = s.plen ∧ t.flen = s.flen ∧ t.consumed = s.consumed ∧
    SameOutside s t ∧ (i ≠ .lgn → t.lr = s.lr) ∧ (i = .lgn → t.h = s.h)

/-- R138: whatever ENC ends in, it leaves every header register but `H.LENGTH`, every byte of `PBUF`, `CONSUMED`, the
login record and what is outside the block; and with an error `H.LENGTH` and every byte of `FBUF` too. -/
def Obligations.EncFrame : Prop :=
  ∀ s t : State, exec .enc s = .next t →
    t.h = { s.h with length := t.h.length } ∧ SameBuffer .pbuf s t ∧ t.plen = s.plen ∧ t.consumed = s.consumed ∧
    t.lr = s.lr ∧ SameOutside s t ∧
    (statusErr t.status ≠ 0 → t.h.length = s.h.length ∧ SameBuffer .fbuf s t ∧ t.flen = s.flen)

/-- R142: whatever DEC ends in, it leaves every byte of `FBUF`, the login record and what is outside the block; and with
an error the header registers, every byte of `PBUF` and `CONSUMED` too. -/
def Obligations.DecFrame : Prop :=
  ∀ s t : State, exec .dec s = .next t →
    SameBuffer .fbuf s t ∧ t.flen = s.flen ∧ t.lr = s.lr ∧ SameOutside s t ∧
    (statusErr t.status ≠ 0 → t.h = s.h ∧ SameBuffer .pbuf s t ∧ t.plen = s.plen ∧ t.consumed = s.consumed)

/-! ### Registers and host moves -/

/-- R11: `H.SOF` reads `0xAA` always, in every state, so no operation writes it; a host write to it is ignored: it is
never refused and leaves everything. Every frame that ENC produces has this constant at offset 0, and DEC accepts a
frame only when the byte there equals it. -/
def Obligations.SofIsHardwired : Prop :=
  (∀ (s : State) (v : Nat), s.readReg (.h .sof) = .w8 0xAA ∧ applyMove (.hwrite .sof v) s = s) ∧
  (∀ s t : State, exec .enc s = .next t → statusErr t.status = 0 → t.readByte .fbuf 0 = some 0xAA) ∧
  (∀ s t : State, exec .dec s = .next t → statusErr t.status = 0 → (s.content .fbuf)[0]? = some 0xAA)

/-- R31 (HWRITE), with the widths of R10: a value below 2^16 for `H.LENGTH`, below 2^8 for any other register, is what
the register then reads, and every other register and both buffers are as before; a wider value changes no register and
no buffer. A write to `H.SOF` has no effect and is never refused, whatever the value (R11). That the host sees the
refusal in the reply is the model's choice (log 9), and so are the input taken off the list (log 1) and the reply `none`
of a move that is not refused (log 3). -/
def Obligations.HostWriteRule : Prop :=
  (∀ (s : State) (rest : List Input) (r : HReg) (v : Nat), r ≠ .sof → s.inputs = .move (.hwrite r v) :: rest →
    ∃ t, step s = .next t ∧ t.mem = s.mem ∧ t.inputs = rest ∧ t.keyValid = s.keyValid ∧ t.key = s.key ∧
      t.codes = s.codes ∧ (∀ q, q ≠ .h r → t.readReg q = s.readReg q) ∧
      if v < (if r = .length then 65536 else 256) then
        t.readReg (.h r) = (if r = .length then .w16 (BitVec.ofNat 16 v) else .w8 (BitVec.ofNat 8 v)) ∧ t.reply = .none
      else t.readReg (.h r) = s.readReg (.h r) ∧ t.reply = .refused) ∧
  (∀ (s : State) (rest : List Input) (v : Nat), s.inputs = .move (.hwrite .sof v) :: rest →
    step s = .next { s with inputs := rest, reply := .none })

/-- R31 (HLOAD): a sequence within the capacity replaces the whole buffer, so the length register reads its length; a
longer one changes nothing; the other buffer, the header registers, `STATUS`, `CONSUMED` and `LR` are as before. That
the host sees the refusal in the reply is the model's choice (log 9). -/
def Obligations.HostLoadRule : Prop :=
  ∀ (s : State) (rest : List Input) (space : Space) (b : List Byte), s.inputs = .move (.hload space b) :: rest →
    ∃ t, step s = .next t ∧ t.h = s.h ∧ t.status = s.status ∧ t.consumed = s.consumed ∧ t.lr = s.lr ∧
      t.keyValid = s.keyValid ∧ t.key = s.key ∧ t.codes = s.codes ∧ t.inputs = rest ∧
      (∀ other, other ≠ space → SameBuffer other s t) ∧
      if b.length ≤ (match space with | .pbuf => 65535 | .fbuf => 65552) then
        t.content space = b ∧ (∀ a, t.readByte space a = b[a]?) ∧
        (match space with | .pbuf => t.plen.toNat = b.length | .fbuf => t.flen.toNat = b.length) ∧ t.reply = .none
      else SameBuffer space s t ∧ t.reply = .refused

/-- R31 (HREAD, HREADBUF), R41: a read has no side effect on the block. HREAD gives, register by register, the field that
holds it (R10, R21, R24, R27), `0xAA` for `H.SOF` (R11), the lengths of the buffers for `PLEN` and `FLEN` (R22, R23);
HREADBUF gives the bytes, and one that reaches beyond the buffer's length gives no bytes. The reply is the model's own
field (log 3), and that a refusal shows there its choice (log 9). -/
def Obligations.HostReadRule : Prop :=
  ∀ (s : State) (rest : List Input),
    (∀ r, s.inputs = .move (.hread r) :: rest →
      step s = .next
        { s with
          inputs := rest
          reply := .reg
            (match r with
            | .h .sof => .w8 0xAA
            | .h .length => .w16 s.h.length
            | .h .msgType => .w8 s.h.msgType
            | .h .flags => .w8 s.h.flags
            | .h .command => .w8 s.h.command
            | .h .subCommand => .w8 s.h.subCommand
            | .h .unknown1 => .w8 s.h.unknown1
            | .h .unknown2 => .w8 s.h.unknown2
            | .status => .w8 s.status
            | .plen => .w16 (BitVec.ofNat 16 (s.content .pbuf).length)
            | .flen => .w17 (BitVec.ofNat 17 (s.content .fbuf).length)
            | .consumed => .w17 s.consumed
            | .lrStatus => .w8 s.lr.fields.status
            | .lrClass => .w2 s.lr.cls
            | .lrKey => .raw s.lr.fields.key.toList
            | .lrHwver => .w16 s.lr.fields.hwver
            | .lrFwMajor => .w8 s.lr.fields.fwMajor
            | .lrFwMinor => .w8 s.lr.fields.fwMinor
            | .lrSerial => .raw s.lr.fields.serial.toList) }) ∧
    (∀ space a n, s.inputs = .move (.hreadbuf space a n) :: rest →
      step s = .next
        { s with
          inputs := rest
          reply :=
            if a + n ≤ (s.content space).length then .bytes (((s.content space).drop a).take n) else .refused })

/-- R77, R105: `KEY k` has the provider present `k` with `KEY_VALID` = 1 from then on, `NOKEY` has it present no key.
That NOKEY leaves what stands on `KEY` is the model's choice (log 2), and so are the input taken off the list (log 1)
and the reply `none` (log 3); no other field changes. -/
def Obligations.KeyProviderInputs : Prop :=
  ∀ (s : State) (rest : List Input),
    (∀ k, s.inputs = .key k :: rest →
      step s = .next { s with keyValid := true, key := k, inputs := rest, reply := .none }) ∧
    (s.inputs = .noKey :: rest → step s = .next { s with keyValid := false, inputs := rest, reply := .none })

/-- R193: with nothing to take, the block is idle and holds its state. -/
def Obligations.IdleHoldsState : Prop := ∀ s : State, s.inputs = [] → step s = .next s

/-- R205: an operation always ends: none waits or hangs. That every other step answers a next state too is the model's
choice: a refused host move (log 9), a step with no input (log 10), and that there is no fault (log 16). -/
def Obligations.EveryStepAnswers : Prop := ∀ s : State, ∃ t, step s = .next t

/-- R21: the layout of `STATUS`: `ERR` in bits 2:0, `UNK_MT` bit 4, `UNK_CMD` bit 5, `UNK_LS` bit 6, bits 3 and 7 zero;
and the codes of the four errors. -/
def Obligations.StatusLayout : Prop :=
  (∀ (e : BitVec 3) (mt cmd ls : Bool),
    (statusWord e mt cmd ls).toNat = e.toNat + 16 * mt.toNat + 32 * cmd.toNat + 64 * ls.toNat) ∧
  Err.invalidHeader.code = 1 ∧ Err.missingKey.code = 2 ∧ Err.payloadTruncated.code = 3 ∧ Err.illegalOp.code = 4

/-! ### The rows that are encodings of data: the value of the row's pure function (log 7) -/

/-- R93, R95, R98: each of the sixteen enumeration rows runs, gives its own name back (and for `login_status` its
class), and changes nothing else, for all code tables that are bijections (R90). That such a row gives its function's
value back is the model's choice (log 7). -/
def Obligations.EnumerationRowsAnswer : Prop :=
  ∀ s : State, s.codes.wf = true →
    exec .messageTypeIpResponse s = .next { s with reply := .messageType (.known .ipResponse) } ∧
    exec .messageTypeSerialPassthroughResponse s =
      .next { s with reply := .messageType (.known .serialPassthroughResponse) } ∧
    exec .messageTypeIpRequest s = .next { s with reply := .messageType (.known .ipRequest) } ∧
    exec .messageTypeSerialPassthroughRequest s =
      .next { s with reply := .messageType (.known .serialPassthroughRequest) } ∧
    exec .commandIpAuthentication s = .next { s with reply := .command (.known .ipAuthentication) } ∧
    exec .commandF2 s = .next { s with reply := .command (.known .f2) } ∧
    exec .commandF3 s = .next { s with reply := .command (.known .f3) } ∧
    exec .commandF4 s = .next { s with reply := .command (.known .f4) } ∧
    exec .commandF5 s = .next { s with reply := .command (.known .f5) } ∧
    exec .commandF8 s = .next { s with reply := .command (.known .f8) } ∧
    exec .commandFB s = .next { s with reply := .command (.known .fb) } ∧
    exec .commandPanelCommunication s = .next { s with reply := .command (.known .panelCommunication) } ∧
    exec .loginStatusSuccess s = .next { s with reply := .loginStatus (.known .success) 0 } ∧
    exec .loginStatusInvalidPassword s = .next { s with reply := .loginStatus (.known .invalidPassword) 1 } ∧
    exec .loginStatusUserAlreadyConnected s = .next { s with reply := .loginStatus (.known .userAlreadyConnected) 2 } ∧
    exec .loginStatusUserAlreadyConnected1 s = .next { s with reply := .loginStatus (.known .userAlreadyConnected1) 2 }

/-- R123: any 16 bytes that begin with `0xAA`, whatever follows them, decode as a wire header, and the row runs and
gives back the fields by position, `length` little-endian, the pad ignored; nothing else changes (log 7). -/
def Obligations.HeaderRowAnswers : Prop :=
  ∀ (s : State) (lo hi mt fl cmd sub u1 u2 : Byte) (pad rest : List Byte), pad.length = 7 →
    ∃ i h, decodeAt s.codes .header ([0xAA, lo, hi, mt, fl, cmd, sub, u1, u2] ++ pad ++ rest) = .ok i ∧ i = .frameHdr16 h ∧
      exec i s = .next { s with reply := .header h } ∧ h.length.toNat = lo.toNat + 256 * hi.toNat ∧
      h.msgType = mt ∧ h.flags = fl ∧ h.command = cmd ∧ h.subCommand = sub ∧ h.unknown1 = u1 ∧ h.unknown2 = u2

/-- R67, R137: a payload region in format RAW is the payload itself, given back byte for byte; nothing else changes, and
no key is needed (log 7). -/
def Obligations.RawRegionRowAnswers : Prop :=
  ∀ (s : State) (p : List Byte), exec (.framePayloadRaw p) s = .next { s with reply := .bytes p }

/-- R68, R140, R110, R177: a payload region in format CIPH. With no key it takes `MissingKey`; with a block too short
for the declared length `PayloadTruncated`; else it gives back the first `length` bytes of what `CIPH_DEC` makes of the
`align16(length)` bytes of the block, and nothing else changes (log 7). -/
def Obligations.CiphRegionRowAnswers : Prop :=
  ∀ (s : State) (n : Half) (block : List Byte),
    if s.keyValid = false then exec (.framePayloadCiph n block) s = .next { s with status := 0x02 }
    else if block.length < align16 n.toNat then
      exec (.framePayloadCiph n block) s = .next { s with status := 0x03 }
    else ∃ hm, exec (.framePayloadCiph n block) s =
      .next (s.setReply (.bytes ((ciphDec Config.cipher s.key (block.take (align16 n.toNat)) hm).take n.toNat)))

/-- R160: any 25 bytes, whatever follows them, decode as a login response payload, and the row runs and gives back the
fields by offset with the class of the status byte; nothing else changes (log 7). -/
def Obligations.LoginLayoutRowAnswers : Prop :=
  ∀ (s : State) (st hw1 hw0 major minor : Byte) (key serial rest : List Byte), key.length = 16 → serial.length = 4 →
    let cls : BitVec 2 :=
      if st = s.codes.success then 0 else if st = s.codes.invalidPassword then 1
      else if st = 0x02 ∨ st = 0x04 then 2 else 3
    ∃ i f, decodeAt s.codes .loginPayload ([st] ++ key ++ [hw1, hw0, major, minor] ++ serial ++ rest) = .ok i ∧
      i = .login25 f ∧ exec i s = .next { s with reply := .login { fields := f, cls := cls } } ∧
      f.status = st ∧ f.key.toList = key ∧ f.hwver.toNat = 256 * hw1.toNat + hw0.toNat ∧ f.fwMajor = major ∧
      f.fwMinor = minor ∧ f.serial.toList = serial

/-! ### The parameters: code tables, alignment, plaintext padding -/

/-- R91, R94, R97 with D6 and D30: the code tables after reset, which are the spec's defaults, from general knowledge but
for the four codes the source gives (log 5); they are bijections (R90). -/
def Obligations.DefaultCodeTables : Prop :=
  messageTypes.map (mtCode State.reset.codes) = [0x01, 0x02, 0x03, 0x04] ∧
  commandNames.map (cmdCode State.reset.codes) = [0xF0, 0xF2, 0xF3, 0xF4, 0xF5, 0xF8, 0xFB, 0x00] ∧
  loginStatuses.map (lsCode State.reset.codes) = [0x00, 0x01, 0x02, 0x04] ∧ State.reset.codes.wf = true ∧
  ∀ c : Codes, mtCode c .ipRequest = 0x03 ∧ cmdCode c .panelCommunication = 0x00 ∧
    lsCode c .userAlreadyConnected = 0x02 ∧ lsCode c .userAlreadyConnected1 = 0x04

/-- R33, R8: the code tables are configuration, the same for every operation: no step changes them. That State holds them
is the model's choice (log 5). -/
def Obligations.ConfigurationIsFixed : Prop := ∀ s t : State, step s = .next t → t.codes = s.codes

/-- R100: a code of the tables reaches the outside only through `UNK_MT`, `UNK_CMD`, `UNK_LS` and `LR.CLASS`, and through
the byte INITR loads into `H.MSG_TYPE` (R157): with any other code tables an operation ends in the same state but for
these, and with the same error. -/
def Obligations.CodeTablesReachOnlyTheFlags : Prop :=
  ∀ (i : Instr) (s t : State) (c : Codes), i ∈ [Instr.initq, .initr, .enc, .dec, .lgn] → exec i s = .next t →
    ∃ u, exec i (s.setCodes c) = .next u ∧ statusErr u.status = statusErr t.status ∧
      u = { t with codes := c, status := u.status, h := u.h, lr := { t.lr with cls := u.lr.cls } } ∧
      u.h = { t.h with msgType := u.h.msgType } ∧ (i ≠ .initr → u.h = t.h)

/-- R92: a value of an enumeration is normalised, so that `Unknown(b)` where `b` is a code counts as `Known`: decoding
answers in normal form; encoding emits an unknown value's byte, and gives a value and its normal form the same byte; a
normal form is `Unknown` only of a byte that is no code. -/
def Obligations.UnknownIsNeverACode : Prop :=
  ∀ c : Codes,
    (∀ b, mtNormal c (mtDecode c b) = mtDecode c b ∧ mtNormal c (.unknown b) = mtDecode c b ∧
      mtEncode c (.unknown b) = b) ∧
    (∀ b, cmdNormal c (cmdDecode c b) = cmdDecode c b ∧ cmdNormal c (.unknown b) = cmdDecode c b ∧
      cmdEncode c (.unknown b) = b) ∧
    (∀ b, lsNormal c (lsDecode c b) = lsDecode c b ∧ lsNormal c (.unknown b) = lsDecode c b ∧
      lsEncode c (.unknown b) = b) ∧
    (∀ v, mtEncode c (mtNormal c v) = mtEncode c v ∧
      ∀ b, mtNormal c v = .unknown b → b ∉ messageTypes.map (mtCode c)) ∧
    (∀ v, cmdEncode c (cmdNormal c v) = cmdEncode c v ∧
      ∀ b, cmdNormal c v = .unknown b → b ∉ commandNames.map (cmdCode c)) ∧
    (∀ v, lsEncode c (lsNormal c v) = lsEncode c v ∧
      ∀ b, lsNormal c v = .unknown b → b ∉ loginStatuses.map (lsCode c))

/-- R9, R48: `padlen(n)` is below 16 and `align16(n)` is the least multiple of 16 that is at least `n`. -/
def Obligations.AlignmentArithmetic : Prop :=
  ∀ n : Nat, align16 n = n + padlen n ∧ padlen n < 16 ∧ align16 n % 16 = 0 ∧
    (∀ m, n ≤ m → m % 16 = 0 → align16 n ≤ m) ∧ padlen n = (16 - n % 16) % 16

/-- R108, R136: what ENC of an encrypted message puts after the header is `CIPH_ENC` of the payload padded with `0xEE`
bytes to a multiple of 16, and nothing after it. The pad byte is the parameter `PT_FILL`, which the model holds at the
spec's value (log 6). -/
def Obligations.EncHandsPaddedPayloadToTheCipher : Prop :=
  ∀ s : State, s.h.flags.getLsbD 0 = true → s.keyValid = true →
    ∃ t q hm, exec .enc s = .next t ∧
      q = s.content .pbuf ++ List.replicate ((16 - (s.content .pbuf).length % 16) % 16) 0xEE ∧
      (t.content .fbuf).drop 16 = ciphEnc Config.cipher s.key q hm
end

