-- ==== Sys2Proof/Laws/Bytes.lean ====
section
/-! SUPPORT. Byte order and alignment arithmetic: what `le16`, `padlen`, `align16` and `pad16` do (R9, R43, R44, R48). -/

namespace Sys2Proof.Machine

theorem padlen_lt (n : Nat) : padlen n < 16 := by
  simp only [padlen]
  omega

theorem le_align16 (n : Nat) : n ≤ align16 n := by
  simp [align16]

theorem align16_lt (n : Nat) : align16 n < n + 16 := by
  have := padlen_lt n
  simp only [align16]
  omega

theorem padlen_of_mod (n : Nat) (h : n % 16 = 0) : padlen n = 0 := by
  simp [padlen, h]

theorem align16_of_mod (n : Nat) (h : n % 16 = 0) : align16 n = n := by
  simp [align16, padlen_of_mod n h]

theorem align16_mono {m n : Nat} (h : m ≤ n) : align16 m ≤ align16 n := by
  simp only [align16, padlen]
  omega

theorem align16_le_65536 {n : Nat} (h : n ≤ 65535) : align16 n ≤ 65536 :=
  (align16_mono h).trans (by decide)

@[simp] theorem length_pad16 (s : List Byte) : (pad16 s).length = align16 s.length := by
  simp [pad16, align16]

theorem pad16_of_mod (s : List Byte) (h : s.length % 16 = 0) : pad16 s = s := by
  simp [pad16, padlen_of_mod _ h]

theorem pad16_prefix (s : List Byte) : (pad16 s).take s.length = s := by
  simp [pad16]

@[simp] theorem length_le16 (n : Half) : (le16 n).length = 2 := rfl

@[simp] theorem length_be16 (n : Half) : (be16 n).length = 2 := rfl

theorem append_bytes (n : Half) : (n.extractLsb' 8 8 ++ n.extractLsb' 0 8 : BitVec 16) = n := by
  apply BitVec.eq_of_getElem_eq
  intro i hi
  simp only [BitVec.getElem_append, BitVec.getElem_extractLsb']
  split <;> simp [← BitVec.getLsbD_eq_getElem]
  rw [show 8 + (i - 8) = i by omega]

@[simp] theorem fromLe16_le16 (n : Half) : fromLe16 (n.extractLsb' 0 8) (n.extractLsb' 8 8) = n := append_bytes n

@[simp] theorem fromBe16_be16 (n : Half) : fromBe16 (n.extractLsb' 8 8) (n.extractLsb' 0 8) = n := append_bytes n

theorem fromLe16_toNat (b0 b1 : Byte) : (fromLe16 b0 b1).toNat = b0.toNat + 256 * b1.toNat := by
  simp only [fromLe16, BitVec.toNat_append, Nat.shiftLeft_eq]
  rw [Nat.mul_comm, ← Nat.two_pow_add_eq_or_of_lt b0.isLt]
  omega

@[simp] theorem low_fromLe16 (b0 b1 : Byte) : (fromLe16 b0 b1).extractLsb' 0 8 = b0 := by
  apply BitVec.eq_of_getElem_eq
  intro i hi
  rw [BitVec.getElem_extractLsb', ← BitVec.getLsbD_eq_getElem]
  refine (BitVec.getLsbD_append (x := b1) (y := b0)).trans ?_
  simp [hi]

@[simp] theorem high_fromLe16 (b0 b1 : Byte) : (fromLe16 b0 b1).extractLsb' 8 8 = b1 := by
  apply BitVec.eq_of_getElem_eq
  intro i hi
  rw [BitVec.getElem_extractLsb', ← BitVec.getLsbD_eq_getElem]
  refine (BitVec.getLsbD_append (x := b1) (y := b0)).trans ?_
  simp

@[simp] theorem length_slice (s : List Byte) (a n : Nat) : (slice s a n).length = min n (s.length - a) := by
  simp [slice]

end Sys2Proof.Machine
end

