-- ==== Sys2Proof/Laws/State.lean ====
section
/-! SUPPORT. One lemma per field of State per update, and the same for the views of the state (buffer contents, lengths,
key port) that an update leaves alone. -/

namespace Sys2Proof.Machine

variable (s : State)

/-! ### `State.setHeader` -/

@[simp] theorem State.setHeader_h (h : Header) : (s.setHeader h).h = h := rfl
@[simp] theorem State.setHeader_status (h : Header) : (s.setHeader h).status = s.status := rfl
@[simp] theorem State.setHeader_mem (h : Header) : (s.setHeader h).mem = s.mem := rfl
@[simp] theorem State.setHeader_consumed (h : Header) : (s.setHeader h).consumed = s.consumed := rfl
@[simp] theorem State.setHeader_lr (h : Header) : (s.setHeader h).lr = s.lr := rfl
@[simp] theorem State.setHeader_keyValid (h : Header) : (s.setHeader h).keyValid = s.keyValid := rfl
@[simp] theorem State.setHeader_key (h : Header) : (s.setHeader h).key = s.key := rfl
@[simp] theorem State.setHeader_codes (h : Header) : (s.setHeader h).codes = s.codes := rfl
@[simp] theorem State.setHeader_inputs (h : Header) : (s.setHeader h).inputs = s.inputs := rfl
@[simp] theorem State.setHeader_reply (h : Header) : (s.setHeader h).reply = s.reply := rfl
@[simp] theorem State.setHeader_content (h : Header) (space : Space) : (s.setHeader h).content space = s.content space := rfl
@[simp] theorem State.setHeader_readByte (h : Header) (space : Space) (a : Nat) :
    (s.setHeader h).readByte space a = s.readByte space a := rfl
@[simp] theorem State.setHeader_plen (h : Header) : (s.setHeader h).plen = s.plen := rfl
@[simp] theorem State.setHeader_flen (h : Header) : (s.setHeader h).flen = s.flen := rfl
@[simp] theorem State.setHeader_keyPort (h : Header) : (s.setHeader h).keyPort = s.keyPort := rfl

/-! ### `State.setStatus` -/

@[simp] theorem State.setStatus_h (w : Byte) : (s.setStatus w).h = s.h := rfl
@[simp] theorem State.setStatus_status (w : Byte) : (s.setStatus w).status = w := rfl
@[simp] theorem State.setStatus_mem (w : Byte) : (s.setStatus w).mem = s.mem := rfl
@[simp] theorem State.setStatus_consumed (w : Byte) : (s.setStatus w).consumed = s.consumed := rfl
@[simp] theorem State.setStatus_lr (w : Byte) : (s.setStatus w).lr = s.lr := rfl
@[simp] theorem State.setStatus_keyValid (w : Byte) : (s.setStatus w).keyValid = s.keyValid := rfl
@[simp] theorem State.setStatus_key (w : Byte) : (s.setStatus w).key = s.key := rfl
@[simp] theorem State.setStatus_codes (w : Byte) : (s.setStatus w).codes = s.codes := rfl
@[simp] theorem State.setStatus_inputs (w : Byte) : (s.setStatus w).inputs = s.inputs := rfl
@[simp] theorem State.setStatus_reply (w : Byte) : (s.setStatus w).reply = s.reply := rfl
@[simp] theorem State.setStatus_content (w : Byte) (space : Space) : (s.setStatus w).content space = s.content space := rfl
@[simp] theorem State.setStatus_readByte (w : Byte) (space : Space) (a : Nat) :
    (s.setStatus w).readByte space a = s.readByte space a := rfl
@[simp] theorem State.setStatus_plen (w : Byte) : (s.setStatus w).plen = s.plen := rfl
@[simp] theorem State.setStatus_flen (w : Byte) : (s.setStatus w).flen = s.flen := rfl
@[simp] theorem State.setStatus_keyPort (w : Byte) : (s.setStatus w).keyPort = s.keyPort := rfl

/-! ### `State.setPbuf` -/

@[simp] theorem State.setPbuf_h (b : List Byte) : (s.setPbuf b).h = s.h := rfl
@[simp] theorem State.setPbuf_status (b : List Byte) : (s.setPbuf b).status = s.status := rfl
@[simp] theorem State.setPbuf_mem (b : List Byte) : (s.setPbuf b).mem = { pbuf := cellsOf b, fbuf := s.mem.fbuf } := rfl
@[simp] theorem State.setPbuf_consumed (b : List Byte) : (s.setPbuf b).consumed = s.consumed := rfl
@[simp] theorem State.setPbuf_lr (b : List Byte) : (s.setPbuf b).lr = s.lr := rfl
@[simp] theorem State.setPbuf_keyValid (b : List Byte) : (s.setPbuf b).keyValid = s.keyValid := rfl
@[simp] theorem State.setPbuf_key (b : List Byte) : (s.setPbuf b).key = s.key := rfl
@[simp] theorem State.setPbuf_codes (b : List Byte) : (s.setPbuf b).codes = s.codes := rfl
@[simp] theorem State.setPbuf_inputs (b : List Byte) : (s.setPbuf b).inputs = s.inputs := rfl
@[simp] theorem State.setPbuf_reply (b : List Byte) : (s.setPbuf b).reply = s.reply := rfl
@[simp] theorem State.setPbuf_keyPort (b : List Byte) : (s.setPbuf b).keyPort = s.keyPort := rfl

/-! ### `State.setFbuf` -/

@[simp] theorem State.setFbuf_h (b : List Byte) : (s.setFbuf b).h = s.h := rfl
@[simp] theorem State.setFbuf_status (b : List Byte) : (s.setFbuf b).status = s.status := rfl
@[simp] theorem State.setFbuf_mem (b : List Byte) : (s.setFbuf b).mem = { pbuf := s.mem.pbuf, fbuf := cellsOf b } := rfl
@[simp] theorem State.setFbuf_consumed (b : List Byte) : (s.setFbuf b).consumed = s.consumed := rfl
@[simp] theorem State.setFbuf_lr (b : List Byte) : (s.setFbuf b).lr = s.lr := rfl
@[simp] theorem State.setFbuf_keyValid (b : List Byte) : (s.setFbuf b).keyValid = s.keyValid := rfl
@[simp] theorem State.setFbuf_key (b : List Byte) : (s.setFbuf b).key = s.key := rfl
@[simp] theorem State.setFbuf_codes (b : List Byte) : (s.setFbuf b).codes = s.codes := rfl
@[simp] theorem State.setFbuf_inputs (b : List Byte) : (s.setFbuf b).inputs = s.inputs := rfl
@[simp] theorem State.setFbuf_reply (b : List Byte) : (s.setFbuf b).reply = s.reply := rfl
@[simp] theorem State.setFbuf_keyPort (b : List Byte) : (s.setFbuf b).keyPort = s.keyPort := rfl

/-! ### `State.setConsumed` -/

@[simp] theorem State.setConsumed_h (n : Nat) : (s.setConsumed n).h = s.h := rfl
@[simp] theorem State.setConsumed_status (n : Nat) : (s.setConsumed n).status = s.status := rfl
@[simp] theorem State.setConsumed_mem (n : Nat) : (s.setConsumed n).mem = s.mem := rfl
@[simp] theorem State.setConsumed_consumed (n : Nat) : (s.setConsumed n).consumed = BitVec.ofNat 17 n := rfl
@[simp] theorem State.setConsumed_lr (n : Nat) : (s.setConsumed n).lr = s.lr := rfl
@[simp] theorem State.setConsumed_keyValid (n : Nat) : (s.setConsumed n).keyValid = s.keyValid := rfl
@[simp] theorem State.setConsumed_key (n : Nat) : (s.setConsumed n).key = s.key := rfl
@[simp] theorem State.setConsumed_codes (n : Nat) : (s.setConsumed n).codes = s.codes := rfl
@[simp] theorem State.setConsumed_inputs (n : Nat) : (s.setConsumed n).inputs = s.inputs := rfl
@[simp] theorem State.setConsumed_reply (n : Nat) : (s.setConsumed n).reply = s.reply := rfl
@[simp] theorem State.setConsumed_content (n : Nat) (space : Space) : (s.setConsumed n).content space = s.content space := rfl
@[simp] theorem State.setConsumed_readByte (n : Nat) (space : Space) (a : Nat) :
    (s.setConsumed n).readByte space a = s.readByte space a := rfl
@[simp] theorem State.setConsumed_plen (n : Nat) : (s.setConsumed n).plen = s.plen := rfl
@[simp] theorem State.setConsumed_flen (n : Nat) : (s.setConsumed n).flen = s.flen := rfl
@[simp] theorem State.setConsumed_keyPort (n : Nat) : (s.setConsumed n).keyPort = s.keyPort := rfl

/-! ### `State.setLr` -/

@[simp] theorem State.setLr_h (r : LoginRegs) : (s.setLr r).h = s.h := rfl
@[simp] theorem State.setLr_status (r : LoginRegs) : (s.setLr r).status = s.status := rfl
@[simp] theorem State.setLr_mem (r : LoginRegs) : (s.setLr r).mem = s.mem := rfl
@[simp] theorem State.setLr_consumed (r : LoginRegs) : (s.setLr r).consumed = s.consumed := rfl
@[simp] theorem State.setLr_lr (r : LoginRegs) : (s.setLr r).lr = r := rfl
@[simp] theorem State.setLr_keyValid (r : LoginRegs) : (s.setLr r).keyValid = s.keyValid := rfl
@[simp] theorem State.setLr_key (r : LoginRegs) : (s.setLr r).key = s.key := rfl
@[simp] theorem State.setLr_codes (r : LoginRegs) : (s.setLr r).codes = s.codes := rfl
@[simp] theorem State.setLr_inputs (r : LoginRegs) : (s.setLr r).inputs = s.inputs := rfl
@[simp] theorem State.setLr_reply (r : LoginRegs) : (s.setLr r).reply = s.reply := rfl
@[simp] theorem State.setLr_content (r : LoginRegs) (space : Space) : (s.setLr r).content space = s.content space := rfl
@[simp] theorem State.setLr_readByte (r : LoginRegs) (space : Space) (a : Nat) :
    (s.setLr r).readByte space a = s.readByte space a := rfl
@[simp] theorem State.setLr_plen (r : LoginRegs) : (s.setLr r).plen = s.plen := rfl
@[simp] theorem State.setLr_flen (r : LoginRegs) : (s.setLr r).flen = s.flen := rfl
@[simp] theorem State.setLr_keyPort (r : LoginRegs) : (s.setLr r).keyPort = s.keyPort := rfl

/-! ### `State.setKeyPort` -/

@[simp] theorem State.setKeyPort_h (p : KeyPort) : (s.setKeyPort p).h = s.h := rfl
@[simp] theorem State.setKeyPort_status (p : KeyPort) : (s.setKeyPort p).status = s.status := rfl
@[simp] theorem State.setKeyPort_mem (p : KeyPort) : (s.setKeyPort p).mem = s.mem := rfl
@[simp] theorem State.setKeyPort_consumed (p : KeyPort) : (s.setKeyPort p).consumed = s.consumed := rfl
@[simp] theorem State.setKeyPort_lr (p : KeyPort) : (s.setKeyPort p).lr = s.lr := rfl
@[simp] theorem State.setKeyPort_keyValid (p : KeyPort) : (s.setKeyPort p).keyValid = p.valid := rfl
@[simp] theorem State.setKeyPort_key (p : KeyPort) : (s.setKeyPort p).key = p.key := rfl
@[simp] theorem State.setKeyPort_codes (p : KeyPort) : (s.setKeyPort p).codes = s.codes := rfl
@[simp] theorem State.setKeyPort_inputs (p : KeyPort) : (s.setKeyPort p).inputs = s.inputs := rfl
@[simp] theorem State.setKeyPort_reply (p : KeyPort) : (s.setKeyPort p).reply = s.reply := rfl
@[simp] theorem State.setKeyPort_content (p : KeyPort) (space : Space) : (s.setKeyPort p).content space = s.content space := rfl
@[simp] theorem State.setKeyPort_readByte (p : KeyPort) (space : Space) (a : Nat) :
    (s.setKeyPort p).readByte space a = s.readByte space a := rfl
@[simp] theorem State.setKeyPort_plen (p : KeyPort) : (s.setKeyPort p).plen = s.plen := rfl
@[simp] theorem State.setKeyPort_flen (p : KeyPort) : (s.setKeyPort p).flen = s.flen := rfl
@[simp] theorem State.setKeyPort_keyPort (p : KeyPort) : (s.setKeyPort p).keyPort = p := rfl

/-! ### `State.setCodes` -/

@[simp] theorem State.setCodes_h (c : Codes) : (s.setCodes c).h = s.h := rfl
@[simp] theorem State.setCodes_status (c : Codes) : (s.setCodes c).status = s.status := rfl
@[simp] theorem State.setCodes_mem (c : Codes) : (s.setCodes c).mem = s.mem := rfl
@[simp] theorem State.setCodes_consumed (c : Codes) : (s.setCodes c).consumed = s.consumed := rfl
@[simp] theorem State.setCodes_lr (c : Codes) : (s.setCodes c).lr = s.lr := rfl
@[simp] theorem State.setCodes_keyValid (c : Codes) : (s.setCodes c).keyValid = s.keyValid := rfl
@[simp] theorem State.setCodes_key (c : Codes) : (s.setCodes c).key = s.key := rfl
@[simp] theorem State.setCodes_codes (c : Codes) : (s.setCodes c).codes = c := rfl
@[simp] theorem State.setCodes_inputs (c : Codes) : (s.setCodes c).inputs = s.inputs := rfl
@[simp] theorem State.setCodes_reply (c : Codes) : (s.setCodes c).reply = s.reply := rfl
@[simp] theorem State.setCodes_content (c : Codes) (space : Space) : (s.setCodes c).content space = s.content space := rfl
@[simp] theorem State.setCodes_readByte (c : Codes) (space : Space) (a : Nat) :
    (s.setCodes c).readByte space a = s.readByte space a := rfl
@[simp] theorem State.setCodes_plen (c : Codes) : (s.setCodes c).plen = s.plen := rfl
@[simp] theorem State.setCodes_flen (c : Codes) : (s.setCodes c).flen = s.flen := rfl
@[simp] theorem State.setCodes_keyPort (c : Codes) : (s.setCodes c).keyPort = s.keyPort := rfl

/-! ### `State.setInputs` -/

@[simp] theorem State.setInputs_h (l : List Input) : (s.setInputs l).h = s.h := rfl
@[simp] theorem State.setInputs_status (l : List Input) : (s.setInputs l).status = s.status := rfl
@[simp] theorem State.setInputs_mem (l : List Input) : (s.setInputs l).mem = s.mem := rfl
@[simp] theorem State.setInputs_consumed (l : List Input) : (s.setInputs l).consumed = s.consumed := rfl
@[simp] theorem State.setInputs_lr (l : List Input) : (s.setInputs l).lr = s.lr := rfl
@[simp] theorem State.setInputs_keyValid (l : List Input) : (s.setInputs l).keyValid = s.keyValid := rfl
@[simp] theorem State.setInputs_key (l : List Input) : (s.setInputs l).key = s.key := rfl
@[simp] theorem State.setInputs_codes (l : List Input) : (s.setInputs l).codes = s.codes := rfl
@[simp] theorem State.setInputs_inputs (l : List Input) : (s.setInputs l).inputs = l := rfl
@[simp] theorem State.setInputs_reply (l : List Input) : (s.setInputs l).reply = s.reply := rfl
@[simp] theorem State.setInputs_content (l : List Input) (space : Space) : (s.setInputs l).content space = s.content space := rfl
@[simp] theorem State.setInputs_readByte (l : List Input) (space : Space) (a : Nat) :
    (s.setInputs l).readByte space a = s.readByte space a := rfl
@[simp] theorem State.setInputs_plen (l : List Input) : (s.setInputs l).plen = s.plen := rfl
@[simp] theorem State.setInputs_flen (l : List Input) : (s.setInputs l).flen = s.flen := rfl
@[simp] theorem State.setInputs_keyPort (l : List Input) : (s.setInputs l).keyPort = s.keyPort := rfl

/-! ### `State.setReply` -/

@[simp] theorem State.setReply_h (r : Reply) : (s.setReply r).h = s.h := rfl
@[simp] theorem State.setReply_status (r : Reply) : (s.setReply r).status = s.status := rfl
@[simp] theorem State.setReply_mem (r : Reply) : (s.setReply r).mem = s.mem := rfl
@[simp] theorem State.setReply_consumed (r : Reply) : (s.setReply r).consumed = s.consumed := rfl
@[simp] theorem State.setReply_lr (r : Reply) : (s.setReply r).lr = s.lr := rfl
@[simp] theorem State.setReply_keyValid (r : Reply) : (s.setReply r).keyValid = s.keyValid := rfl
@[simp] theorem State.setReply_key (r : Reply) : (s.setReply r).key = s.key := rfl
@[simp] theorem State.setReply_codes (r : Reply) : (s.setReply r).codes = s.codes := rfl
@[simp] theorem State.setReply_inputs (r : Reply) : (s.setReply r).inputs = s.inputs := rfl
@[simp] theorem State.setReply_reply (r : Reply) : (s.setReply r).reply = r := rfl
@[simp] theorem State.setReply_content (r : Reply) (space : Space) : (s.setReply r).content space = s.content space := rfl
@[simp] theorem State.setReply_readByte (r : Reply) (space : Space) (a : Nat) :
    (s.setReply r).readByte space a = s.readByte space a := rfl
@[simp] theorem State.setReply_plen (r : Reply) : (s.setReply r).plen = s.plen := rfl
@[simp] theorem State.setReply_flen (r : Reply) : (s.setReply r).flen = s.flen := rfl
@[simp] theorem State.setReply_keyPort (r : Reply) : (s.setReply r).keyPort = s.keyPort := rfl

/-! ### `State.raise` -/

@[simp] theorem State.raise_h (e : Err) : (s.raise e).h = s.h := rfl
@[simp] theorem State.raise_status (e : Err) : (s.raise e).status = statusOfError e := rfl
@[simp] theorem State.raise_mem (e : Err) : (s.raise e).mem = s.mem := rfl
@[simp] theorem State.raise_consumed (e : Err) : (s.raise e).consumed = s.consumed := rfl
@[simp] theorem State.raise_lr (e : Err) : (s.raise e).lr = s.lr := rfl
@[simp] theorem State.raise_keyValid (e : Err) : (s.raise e).keyValid = s.keyValid := rfl
@[simp] theorem State.raise_key (e : Err) : (s.raise e).key = s.key := rfl
@[simp] theorem State.raise_codes (e : Err) : (s.raise e).codes = s.codes := rfl
@[simp] theorem State.raise_inputs (e : Err) : (s.raise e).inputs = s.inputs := rfl
@[simp] theorem State.raise_reply (e : Err) : (s.raise e).reply = s.reply := rfl
@[simp] theorem State.raise_content (e : Err) (space : Space) : (s.raise e).content space = s.content space := rfl
@[simp] theorem State.raise_readByte (e : Err) (space : Space) (a : Nat) :
    (s.raise e).readByte space a = s.readByte space a := rfl
@[simp] theorem State.raise_plen (e : Err) : (s.raise e).plen = s.plen := rfl
@[simp] theorem State.raise_flen (e : Err) : (s.raise e).flen = s.flen := rfl
@[simp] theorem State.raise_keyPort (e : Err) : (s.raise e).keyPort = s.keyPort := rfl

/-! ### `State.illegalOp` -/

@[simp] theorem State.illegalOp_h : (s.illegalOp).h = s.h := rfl
@[simp] theorem State.illegalOp_status : (s.illegalOp).status = statusOfError .illegalOp := rfl
@[simp] theorem State.illegalOp_mem : (s.illegalOp).mem = s.mem := rfl
@[simp] theorem State.illegalOp_consumed : (s.illegalOp).consumed = s.consumed := rfl
@[simp] theorem State.illegalOp_lr : (s.illegalOp).lr = s.lr := rfl
@[simp] theorem State.illegalOp_keyValid : (s.illegalOp).keyValid = s.keyValid := rfl
@[simp] theorem State.illegalOp_key : (s.illegalOp).key = s.key := rfl
@[simp] theorem State.illegalOp_codes : (s.illegalOp).codes = s.codes := rfl
@[simp] theorem State.illegalOp_inputs : (s.illegalOp).inputs = s.inputs := rfl
@[simp] theorem State.illegalOp_reply : (s.illegalOp).reply = s.reply := rfl
@[simp] theorem State.illegalOp_content (space : Space) : (s.illegalOp).content space = s.content space := rfl
@[simp] theorem State.illegalOp_readByte (space : Space) (a : Nat) :
    (s.illegalOp).readByte space a = s.readByte space a := rfl
@[simp] theorem State.illegalOp_plen : (s.illegalOp).plen = s.plen := rfl
@[simp] theorem State.illegalOp_flen : (s.illegalOp).flen = s.flen := rfl
@[simp] theorem State.illegalOp_keyPort : (s.illegalOp).keyPort = s.keyPort := rfl

/-! ### `State.loadShape` -/

@[simp] theorem State.loadShape_h (d : Header) : (s.loadShape d).h = d := rfl
@[simp] theorem State.loadShape_status (d : Header) : (s.loadShape d).status = statusClear := rfl
@[simp] theorem State.loadShape_mem (d : Header) : (s.loadShape d).mem = s.mem := rfl
@[simp] theorem State.loadShape_consumed (d : Header) : (s.loadShape d).consumed = s.consumed := rfl
@[simp] theorem State.loadShape_lr (d : Header) : (s.loadShape d).lr = s.lr := rfl
@[simp] theorem State.loadShape_keyValid (d : Header) : (s.loadShape d).keyValid = s.keyValid := rfl
@[simp] theorem State.loadShape_key (d : Header) : (s.loadShape d).key = s.key := rfl
@[simp] theorem State.loadShape_codes (d : Header) : (s.loadShape d).codes = s.codes := rfl
@[simp] theorem State.loadShape_inputs (d : Header) : (s.loadShape d).inputs = s.inputs := rfl
@[simp] theorem State.loadShape_reply (d : Header) : (s.loadShape d).reply = s.reply := rfl
@[simp] theorem State.loadShape_content (d : Header) (space : Space) : (s.loadShape d).content space = s.content space := rfl
@[simp] theorem State.loadShape_readByte (d : Header) (space : Space) (a : Nat) :
    (s.loadShape d).readByte space a = s.readByte space a := rfl
@[simp] theorem State.loadShape_plen (d : Header) : (s.loadShape d).plen = s.plen := rfl
@[simp] theorem State.loadShape_flen (d : Header) : (s.loadShape d).flen = s.flen := rfl
@[simp] theorem State.loadShape_keyPort (d : Header) : (s.loadShape d).keyPort = s.keyPort := rfl

/-! ### `State.commitEnc` -/

@[simp] theorem State.commitEnc_h (r : EncResult) : (s.commitEnc r).h = { s.h with length := r.length } := rfl
@[simp] theorem State.commitEnc_status (r : EncResult) : (s.commitEnc r).status = statusOfHeader s.codes s.h := rfl
@[simp] theorem State.commitEnc_mem (r : EncResult) : (s.commitEnc r).mem = { pbuf := s.mem.pbuf, fbuf := cellsOf r.frame } := rfl
@[simp] theorem State.commitEnc_consumed (r : EncResult) : (s.commitEnc r).consumed = s.consumed := rfl
@[simp] theorem State.commitEnc_lr (r : EncResult) : (s.commitEnc r).lr = s.lr := rfl
@[simp] theorem State.commitEnc_keyValid (r : EncResult) : (s.commitEnc r).keyValid = s.keyValid := rfl
@[simp] theorem State.commitEnc_key (r : EncResult) : (s.commitEnc r).key = s.key := rfl
@[simp] theorem State.commitEnc_codes (r : EncResult) : (s.commitEnc r).codes = s.codes := rfl
@[simp] theorem State.commitEnc_inputs (r : EncResult) : (s.commitEnc r).inputs = s.inputs := rfl
@[simp] theorem State.commitEnc_reply (r : EncResult) : (s.commitEnc r).reply = s.reply := rfl
@[simp] theorem State.commitEnc_keyPort (r : EncResult) : (s.commitEnc r).keyPort = s.keyPort := rfl

/-! ### `State.commitDec` -/

@[simp] theorem State.commitDec_h (r : DecResult) : (s.commitDec r).h = r.header := rfl
@[simp] theorem State.commitDec_status (r : DecResult) :
    (s.commitDec r).status = statusOfHeader s.codes r.header := rfl
@[simp] theorem State.commitDec_mem (r : DecResult) : (s.commitDec r).mem = { pbuf := cellsOf r.payload, fbuf := s.mem.fbuf } := rfl
@[simp] theorem State.commitDec_consumed (r : DecResult) : (s.commitDec r).consumed = BitVec.ofNat 17 r.used := rfl
@[simp] theorem State.commitDec_lr (r : DecResult) : (s.commitDec r).lr = s.lr := rfl
@[simp] theorem State.commitDec_keyValid (r : DecResult) : (s.commitDec r).keyValid = s.keyValid := rfl
@[simp] theorem State.commitDec_key (r : DecResult) : (s.commitDec r).key = s.key := rfl
@[simp] theorem State.commitDec_codes (r : DecResult) : (s.commitDec r).codes = s.codes := rfl
@[simp] theorem State.commitDec_inputs (r : DecResult) : (s.commitDec r).inputs = s.inputs := rfl
@[simp] theorem State.commitDec_reply (r : DecResult) : (s.commitDec r).reply = s.reply := rfl
@[simp] theorem State.commitDec_keyPort (r : DecResult) : (s.commitDec r).keyPort = s.keyPort := rfl

/-! ### `State.commitLgn` -/

@[simp] theorem State.commitLgn_h (f : LoginFields) : (s.commitLgn f).h = s.h := rfl
@[simp] theorem State.commitLgn_status (f : LoginFields) :
    (s.commitLgn f).status = statusOfLogin (loginRegs s.codes f).cls := rfl
@[simp] theorem State.commitLgn_mem (f : LoginFields) : (s.commitLgn f).mem = s.mem := rfl
@[simp] theorem State.commitLgn_consumed (f : LoginFields) : (s.commitLgn f).consumed = s.consumed := rfl
@[simp] theorem State.commitLgn_lr (f : LoginFields) : (s.commitLgn f).lr = loginRegs s.codes f := rfl
@[simp] theorem State.commitLgn_keyValid (f : LoginFields) : (s.commitLgn f).keyValid = s.keyValid := rfl
@[simp] theorem State.commitLgn_key (f : LoginFields) : (s.commitLgn f).key = s.key := rfl
@[simp] theorem State.commitLgn_codes (f : LoginFields) : (s.commitLgn f).codes = s.codes := rfl
@[simp] theorem State.commitLgn_inputs (f : LoginFields) : (s.commitLgn f).inputs = s.inputs := rfl
@[simp] theorem State.commitLgn_reply (f : LoginFields) : (s.commitLgn f).reply = s.reply := rfl
@[simp] theorem State.commitLgn_content (f : LoginFields) (space : Space) : (s.commitLgn f).content space = s.content space := rfl
@[simp] theorem State.commitLgn_readByte (f : LoginFields) (space : Space) (a : Nat) :
    (s.commitLgn f).readByte space a = s.readByte space a := rfl
@[simp] theorem State.commitLgn_plen (f : LoginFields) : (s.commitLgn f).plen = s.plen := rfl
@[simp] theorem State.commitLgn_flen (f : LoginFields) : (s.commitLgn f).flen = s.flen := rfl
@[simp] theorem State.commitLgn_keyPort (f : LoginFields) : (s.commitLgn f).keyPort = s.keyPort := rfl

/-! ### The pieces of the memory that a buffer replacement leaves alone -/

@[simp] theorem State.setPbuf_content_fbuf (b : List Byte) : (s.setPbuf b).content .fbuf = s.content .fbuf := rfl
@[simp] theorem State.setFbuf_content_pbuf (b : List Byte) : (s.setFbuf b).content .pbuf = s.content .pbuf := rfl
@[simp] theorem State.setPbuf_readByte_fbuf (b : List Byte) (a : Nat) :
    (s.setPbuf b).readByte .fbuf a = s.readByte .fbuf a := rfl
@[simp] theorem State.setFbuf_readByte_pbuf (b : List Byte) (a : Nat) :
    (s.setFbuf b).readByte .pbuf a = s.readByte .pbuf a := rfl
@[simp] theorem State.setPbuf_flen (b : List Byte) : (s.setPbuf b).flen = s.flen := rfl
@[simp] theorem State.setFbuf_plen (b : List Byte) : (s.setFbuf b).plen = s.plen := rfl
@[simp] theorem State.commitEnc_content_pbuf (r : EncResult) : (s.commitEnc r).content .pbuf = s.content .pbuf := rfl
@[simp] theorem State.commitDec_content_fbuf (r : DecResult) : (s.commitDec r).content .fbuf = s.content .fbuf := rfl
@[simp] theorem State.commitEnc_plen (r : EncResult) : (s.commitEnc r).plen = s.plen := rfl
@[simp] theorem State.commitDec_flen (r : DecResult) : (s.commitDec r).flen = s.flen := rfl

end Sys2Proof.Machine
end

