-- ==== Sys2Proof/Laws/Memory.lean ====
section
/-! SUPPORT. The buffers: what a replacement leaves to be read, and that every memory operation keeps the canonical form
and the capacities (`Memory.wf`). -/

namespace Sys2Proof.Machine

@[simp] theorem bytesOf_cellsOf (b : List Byte) : bytesOf (cellsOf b) = b := by
  simp [bytesOf, cellsOf, Function.comp_def]

@[simp] theorem length_cellsOf (b : List Byte) : (cellsOf b).length = b.length := by simp [cellsOf]

@[simp] theorem length_bytesOf (c : List Host.Cell) : (bytesOf c).length = c.length := by simp [bytesOf]

@[simp] theorem canonical_cellsOf (b : List Byte) : canonical (cellsOf b) = true := by
  simp [canonical, cellsOf, Function.comp_def, List.range_eq_range']

/-- A canonical buffer is the canonical form of its own bytes: equal contents are equal data. -/
theorem cellsOf_bytesOf {c : List Host.Cell} (h : canonical c = true) : cellsOf (bytesOf c) = c := by
  have h' : c.map Prod.fst = List.range c.length := by simpa [canonical] using h
  apply List.ext_getElem
  · simp
  · intro i h1 h2
    have hi : (c.map Prod.fst)[i]'(by simpa using h2) = i := by simp [h']
    apply Prod.ext <;> simp [cellsOf, bytesOf] at hi ⊢
    exact hi.symm

/-- Reading one byte of a buffer in canonical form. -/
theorem readByte_cellsOf (b : List Byte) (a : Nat) : readByte (cellsOf b) a = b[a]? := by
  have key : ∀ (l : List Byte) (k : Nat),
      readByte ((l.zipIdx k).map (fun x => (x.2, x.1))) a = if k ≤ a then l[a - k]? else none := by
    intro l
    induction l with
    | nil => intro k; simp [readByte, unlisted]
    | cons x l ih =>
      intro k
      have ih' := ih (k + 1)
      simp only [List.zipIdx_cons, List.map_cons, readByte, List.find?_cons] at ih' ⊢
      by_cases hk : k = a
      · simp [hk]
      · rw [show (k == a) = false by simpa using hk]
        simp only [ih']
        by_cases hka : k ≤ a
        · rw [if_pos hka, if_pos (by omega), show a - k = (a - (k + 1)) + 1 by omega, List.getElem?_cons_succ]
        · rw [if_neg hka, if_neg (by omega)]
  simpa [cellsOf] using key b 0

theorem readByte_of_canonical {c : List Host.Cell} (h : canonical c = true) (a : Nat) :
    readByte c a = (bytesOf c)[a]? := by
  conv_lhs => rw [← cellsOf_bytesOf h]
  exact readByte_cellsOf _ a

@[simp] theorem State.setPbuf_content_pbuf (s : State) (b : List Byte) : (s.setPbuf b).content .pbuf = b :=
  bytesOf_cellsOf b

@[simp] theorem State.setFbuf_content_fbuf (s : State) (b : List Byte) : (s.setFbuf b).content .fbuf = b :=
  bytesOf_cellsOf b

@[simp] theorem State.setSpace_content (s : State) (space : Space) (b : List Byte) :
    (s.setSpace space b).content space = b := by
  cases space <;> simp [State.setSpace]

@[simp] theorem State.commitEnc_content_fbuf (s : State) (r : EncResult) : (s.commitEnc r).content .fbuf = r.frame :=
  bytesOf_cellsOf _

@[simp] theorem State.commitDec_content_pbuf (s : State) (r : DecResult) : (s.commitDec r).content .pbuf = r.payload :=
  bytesOf_cellsOf _

theorem Memory.wf_iff (m : Memory) : m.wf = true ↔
    canonical m.pbuf = true ∧ canonical m.fbuf = true ∧ m.pbuf.length ≤ pmax ∧ m.fbuf.length ≤ fmax := by
  simp [Memory.wf, and_assoc]

theorem State.content_length_le {s : State} (h : s.mem.wf = true) (space : Space) :
    (s.content space).length ≤ spaceMax space := by
  obtain ⟨_, _, hp, hf⟩ := (Memory.wf_iff _).1 h
  cases space <;> simpa [State.content, Memory.cells, spaceMax]

/-- Every buffer replacement within the capacity keeps the form. -/
theorem State.setSpace_wf {s : State} (h : s.mem.wf = true) (space : Space) (b : List Byte)
    (hb : b.length ≤ spaceMax space) : (s.setSpace space b).mem.wf = true := by
  obtain ⟨cp, cf, hp, hf⟩ := (Memory.wf_iff _).1 h
  cases space <;> simp_all [State.setSpace, Memory.wf_iff, spaceMax]

theorem State.setPbuf_wf {s : State} (h : s.mem.wf = true) {b : List Byte} (hb : b.length ≤ pmax) :
    (s.setPbuf b).mem.wf = true := State.setSpace_wf h .pbuf b hb

theorem State.setFbuf_wf {s : State} (h : s.mem.wf = true) {b : List Byte} (hb : b.length ≤ fmax) :
    (s.setFbuf b).mem.wf = true := State.setSpace_wf h .fbuf b hb

/-- `MemRead` answers exactly inside the length, and answers the bytes that stand there (R41). -/
theorem State.memRead_eq_some {s : State} {space : Space} {addr n : Nat} {v : List Byte} :
    s.memRead space addr n = some v ↔
      addr + n ≤ (s.content space).length ∧ v = slice (s.content space) addr n := by
  simp only [State.memRead]
  split <;> simp_all [eq_comm]

theorem State.memRead_all (s : State) (space : Space) :
    s.memRead space 0 (s.content space).length = some (s.content space) := by
  simp [State.memRead, slice]

/-- What a `MemWrite` that happens does: the buffer is replaced, its length kept (R41). -/
theorem State.memWrite_eq_some {s t : State} {space : Space} {addr : Nat} {v : List Byte} :
    s.memWrite space addr v = some t ↔
      addr + v.length ≤ (s.content space).length ∧
      t = s.setSpace space ((s.content space).take addr ++ v ++ (s.content space).drop (addr + v.length)) := by
  simp only [State.memWrite]
  split <;> simp_all [eq_comm]

theorem State.memWrite_wf {s t : State} {space : Space} {addr : Nat} {v : List Byte} (h : s.mem.wf = true)
    (hw : s.memWrite space addr v = some t) : t.mem.wf = true := by
  obtain ⟨hl, rfl⟩ := State.memWrite_eq_some.1 hw
  apply State.setSpace_wf h
  have := State.content_length_le h space
  simp
  omega

/-- A read after a write to the same place gives what was written. -/
theorem State.memRead_memWrite {s t : State} {space : Space} {addr : Nat} {v : List Byte}
    (hw : s.memWrite space addr v = some t) : t.memRead space addr v.length = some v := by
  obtain ⟨hl, rfl⟩ := State.memWrite_eq_some.1 hw
  have hlen : ((s.content space).take addr).length = addr := by simp; omega
  rw [State.memRead_eq_some]
  constructor
  · simp
    omega
  · simp only [State.setSpace_content, slice, List.append_assoc]
    rw [List.drop_append_of_le_length (by omega), List.drop_of_length_le (by omega)]
    simp

end Sys2Proof.Machine
end

