-- ==== Sys2Proof/Laws/Codec.lean ====
section
/-! SUPPORT. What the pure functions of the four components can answer, said once each: the header codec (R120, R123),
the key and the transform (R108 to R110), the payload region (R136, R137, R140), the login layout (R161), and the
computations of ENC and DEC (R138, R142). -/

namespace Sys2Proof.Machine

/-! ### Header -/

theorem hdrEncode_eq (h : Header) : hdrEncode h =
    [sof, h.length.extractLsb' 0 8, h.length.extractLsb' 8 8, h.msgType, h.flags, h.command, h.subCommand, h.unknown1,
      h.unknown2, fill, fill, fill, fill, fill, fill, fill] := rfl

@[simp] theorem length_hdrEncode (h : Header) : (hdrEncode h).length = hdrWire := rfl

/-- `hdr_decode` fails exactly in the two cases of R175. -/
theorem hdrDecode_eq_error {b : List Byte} {e : Err} :
    hdrDecode b = .error e ↔ e = .invalidHeader ∧ (b.length < 16 ∨ b[0]? ≠ some sof) := by
  unfold hdrDecode
  split
  · next h => simp [h, eq_comm (a := e)]
  · next h =>
    rw [List.getElem?_eq_getElem (by omega)]
    split
    · next h0 => simp [h0, eq_comm (a := e)]
    · next h0 =>
      have h0 : b[0] = sof := by simpa using h0
      simp [h0, h]

/-- `hdr_decode` succeeds on 16 bytes and the marker, with the fields by position (R123). -/
theorem hdrDecode_eq_ok {b : List Byte} {h : Header} :
    hdrDecode b = .ok h ↔ ∃ hb : 16 ≤ b.length, b[0] = sof ∧ h =
      { length := fromLe16 b[1] b[2], msgType := b[3], flags := b[4], command := b[5], subCommand := b[6],
        unknown1 := b[7], unknown2 := b[8] } := by
  unfold hdrDecode
  split
  · next h => simp; omega
  · next hl =>
    have hb : 16 ≤ b.length := by omega
    split
    · next h0 => simp [h0]
    · next h0 =>
      have h0 : b[0] = sof := by simpa using h0
      simp [hb, h0, eq_comm (a := h)]

/-- Bytes that are a valid header are one, with some fields (R123). -/
theorem exists_hdrDecode {b : List Byte} (h1 : 16 ≤ b.length) (h2 : b[0]? = some sof) : ∃ h, hdrDecode b = .ok h := by
  cases hh : hdrDecode b with
  | ok h => exact ⟨h, rfl⟩
  | error e =>
    obtain ⟨_, h | h⟩ := hdrDecode_eq_error.1 hh
    · omega
    · exact absurd h2 h

/-- What a decoded header says of the bytes it was decoded from (R123), in the terms that hold of any byte sequence. -/
theorem hdrDecode_bytes {b : List Byte} {h : Header} (hh : hdrDecode b = .ok h) :
    16 ≤ b.length ∧ b[0]? = some sof ∧ h.flags = b.getD 4 0 ∧
    h.length.toNat = (b.getD 1 0).toNat + 256 * (b.getD 2 0).toNat := by
  obtain ⟨hb, h0, rfl⟩ := hdrDecode_eq_ok.1 hh
  have e : ∀ i, (hi : i < b.length) → b.getD i 0 = b[i] := fun i hi => by
    simp [List.getD_eq_getElem?_getD, List.getElem?_eq_getElem hi]
  refine ⟨hb, ?_, ?_, ?_⟩
  · rw [List.getElem?_eq_getElem (by omega), h0]
  · rw [e 4 (by omega)]
  · rw [e 1 (by omega), e 2 (by omega), fromLe16_toNat]

/-! ### Key and transform -/

theorem keyOrFail_eq_ok {p : KeyPort} {k : Key} : keyOrFail p = .ok k ↔ p.valid = true ∧ k = p.key := by
  unfold keyOrFail
  split <;> simp_all [eq_comm (a := k)]

theorem keyOrFail_eq_error {p : KeyPort} {e : Err} : keyOrFail p = .error e ↔ p.valid = false ∧ e = .missingKey := by
  unfold keyOrFail
  split <;> simp_all [eq_comm (a := e)]

/-- `CIPH_LEN` (R106). -/
@[simp] theorem length_ciphEnc (c : Cipher) (k : Key) (x : List Byte) (h : x.length % 16 = 0) :
    (ciphEnc c k x h).length = x.length := by
  simp [ciphEnc]
  omega

/-- `CIPH_LEN` (R106). -/
@[simp] theorem length_ciphDec (c : Cipher) (k : Key) (x : List Byte) (h : x.length % 16 = 0) :
    (ciphDec c k x h).length = x.length := by
  simp [ciphDec]
  omega

theorem ciphDec_of_vector (c : Cipher) (k : Key) (m : Nat) (v : List.Vector Byte (16 * m)) (h : v.toList.length % 16 = 0) :
    ciphDec c k v.toList h = ((c k m).symm v).toList := by
  obtain ⟨l, hl⟩ := v
  have hm : m = l.length / 16 := by omega
  subst hm
  rfl

/-- `CIPH_INV` (R106). -/
theorem ciphDec_ciphEnc (c : Cipher) (k : Key) (x : List Byte) (h : x.length % 16 = 0)
    (h' : (ciphEnc c k x h).length % 16 = 0) : ciphDec c k (ciphEnc c k x h) h' = x := by
  simp only [ciphEnc]
  rw [ciphDec_of_vector, Equiv.symm_apply_apply]
  rfl

@[simp] theorem length_xfEncrypt (c : Cipher) (p : List Byte) (k : Key) :
    (xfEncrypt c p k).length = align16 p.length := by
  rw [xfEncrypt, length_ciphEnc, length_padPlain]

/-- The second pad of R136 appends nothing under the cipher contract. -/
@[simp] theorem pad16_xfEncrypt (c : Cipher) (p : List Byte) (k : Key) : pad16 (xfEncrypt c p k) = xfEncrypt c p k :=
  pad16_of_mod _ (by simp [align16_mod])

theorem length_xfDecrypt (c : Cipher) (x : List Byte) (h : x.length % 16 = 0) (k : Key) (n : Nat) :
    (xfDecrypt c x h k n).length = min n x.length := by simp [xfDecrypt]

/-! ### Payload region -/

theorem encodeRegion_eq_error {c : Cipher} {port : KeyPort} {enc : Bool} {p : List Byte} {e : Err} :
    encodeRegion c port enc p = .error e ↔ enc = true ∧ port.valid = false ∧ e = .missingKey := by
  unfold encodeRegion keyOrFail
  cases enc <;> cases port.valid <;> simp [eq_comm (a := e)]

theorem encodeRegion_eq_ok {c : Cipher} {port : KeyPort} {enc : Bool} {p body : List Byte} :
    encodeRegion c port enc p = .ok body ↔
      (enc = false ∧ body = p) ∨ (enc = true ∧ port.valid = true ∧ body = xfEncrypt c p port.key) := by
  unfold encodeRegion keyOrFail
  cases enc <;> cases port.valid <;> simp [eq_comm (a := body)]

/-- The region ENC writes has the length a decoder expects (R69, R152). -/
theorem length_of_encodeRegion {c : Cipher} {port : KeyPort} {enc : Bool} {p body : List Byte}
    (h : encodeRegion c port enc p = .ok body) : body.length = regionLength enc p.length := by
  rcases encodeRegion_eq_ok.1 h with ⟨rfl, rfl⟩ | ⟨rfl, -, rfl⟩ <;> simp [regionLength]

theorem decodeRaw_eq_error {n : Nat} {r : List Byte} {e : Err} :
    decodeRaw n r = .error e ↔ r.length < n ∧ e = .payloadTruncated := by
  unfold decodeRaw
  split <;> simp_all [eq_comm (a := e)]

theorem decodeRaw_eq_ok {n : Nat} {r p : List Byte} : decodeRaw n r = .ok p ↔ n ≤ r.length ∧ p = r.take n := by
  unfold decodeRaw
  split
  · simp; omega
  · simp [eq_comm (a := p)]; omega

theorem decodeCiph_eq_error {c : Cipher} {port : KeyPort} {n : Nat} {r : List Byte} {e : Err} :
    decodeCiph c port n r = .error e ↔ (port.valid = false ∧ e = .missingKey) ∨
      (port.valid = true ∧ r.length < align16 n ∧ e = .payloadTruncated) := by
  unfold decodeCiph
  split
  · next h => simp [(keyOrFail_eq_error.1 h).1, (keyOrFail_eq_error.1 h).2, eq_comm (a := e)]
  · next h =>
    rw [(keyOrFail_eq_ok.1 h).1]
    split
    · next hl => simp [hl, eq_comm (a := e)]
    · next hl => simp [hl]

theorem decodeCiph_eq_ok {c : Cipher} {port : KeyPort} {n : Nat} {r p : List Byte} :
    decodeCiph c port n r = .ok p ↔ port.valid = true ∧ align16 n ≤ r.length ∧
      ∃ h, p = xfDecrypt c (r.take (align16 n)) h port.key n := by
  unfold decodeCiph
  split
  · next h => simp [(keyOrFail_eq_error.1 h).1]
  · next h =>
    obtain ⟨hv, rfl⟩ := keyOrFail_eq_ok.1 h
    split
    · next hl => simp; omega
    · next hl =>
      have hl : align16 n ≤ r.length := by omega
      simp [hv, hl, align16_mod, eq_comm (a := p)]

/-- What decoding a region delivers has exactly the declared length, whatever the key (R111, R142). -/
theorem length_of_decodeRegion {c : Cipher} {port : KeyPort} {enc : Bool} {n : Nat} {r p : List Byte}
    (h : decodeRegion c port enc n r = .ok p) : p.length = n ∧ regionLength enc n ≤ r.length := by
  unfold decodeRegion at h
  cases enc
  · obtain ⟨hn, rfl⟩ := decodeRaw_eq_ok.1 h
    simp [regionLength, hn]
  · obtain ⟨-, hl, _, rfl⟩ := decodeCiph_eq_ok.1 h
    have := le_align16 n
    rw [length_xfDecrypt]
    simp only [List.length_take, regionLength, if_true]
    omega

/-! ### Login layout -/

theorem loginParse_eq_error {p : List Byte} {e : Err} :
    loginParse p = .error e ↔ p.length < 25 ∧ e = .payloadTruncated := by
  unfold loginParse
  split <;> simp_all [eq_comm (a := e)]

theorem loginParse_eq_ok {p : List Byte} {f : LoginFields} :
    loginParse p = .ok f ↔ ∃ hp : 25 ≤ p.length, f.status = p[0] ∧ f.key.toList = slice p 1 16 ∧
      f.hwver = fromBe16 p[17] p[18] ∧ f.fwMajor = p[19] ∧ f.fwMinor = p[20] ∧ f.serial.toList = slice p 21 4 := by
  unfold loginParse
  split
  · next h => simp; omega
  · next h =>
    obtain ⟨st, k, hw, mj, mn, se⟩ := f
    have e1 : ∀ (l : List Byte) (hl : l.toArray.size = 16), (⟨l.toArray, hl⟩ : Key) = k ↔ k.toList = l := by
      intro l hl
      rw [← Vector.toList_inj, eq_comm]
      rfl
    have e2 : ∀ (l : List Byte) (hl : l.toArray.size = 4), (⟨l.toArray, hl⟩ : Serial) = se ↔ se.toList = l := by
      intro l hl
      rw [← Vector.toList_inj, eq_comm]
      rfl
    have h25 : 25 ≤ p.length := by omega
    simp only [Except.ok.injEq, LoginFields.mk.injEq, e1, e2]
    simp only [h25, exists_true_left, eq_comm (b := st), eq_comm (b := hw), eq_comm (b := mj), eq_comm (b := mn)]

/-! ### The computations of ENC and DEC -/

theorem encResult_eq_error {c : Cipher} {port : KeyPort} {h : Header} {p : List Byte} {n : Half} {e : Err} :
    encResult c port h p n = .error e ↔ h.encrypt = true ∧ port.valid = false ∧ e = .missingKey := by
  rw [← encodeRegion_eq_error (c := c) (p := p)]
  unfold encResult
  cases encodeRegion c port h.encrypt p <;> simp

theorem encResult_eq_ok {c : Cipher} {port : KeyPort} {h : Header} {p : List Byte} {n : Half} {r : EncResult} :
    encResult c port h p n = .ok r ↔ ∃ body, encodeRegion c port h.encrypt p = .ok body ∧
      r = { length := n, frame := hdrEncode { h with length := n } ++ body } := by
  unfold encResult
  cases encodeRegion c port h.encrypt p <;> simp [eq_comm (a := r)]

/-- DEC's errors in the order of R181. -/
theorem decResult_eq_error {c : Cipher} {port : KeyPort} {b : List Byte} {e : Err} :
    decResult c port b = .error e ↔ hdrDecode b = .error e ∨
      ∃ h, hdrDecode b = .ok h ∧ decodeRegion c port h.encrypt h.length.toNat (b.drop hdrWire) = .error e := by
  unfold decResult
  cases hdrDecode b with
  | error _ => simp
  | ok h => cases hr : decodeRegion c port h.encrypt h.length.toNat (b.drop hdrWire) <;> simp [hr]

theorem decResult_eq_ok {c : Cipher} {port : KeyPort} {b : List Byte} {r : DecResult} :
    decResult c port b = .ok r ↔ ∃ h p, hdrDecode b = .ok h ∧
      decodeRegion c port h.encrypt h.length.toNat (b.drop hdrWire) = .ok p ∧
      r = { header := h, payload := p, used := hdrWire + regionLength h.encrypt h.length.toNat } := by
  unfold decResult
  cases hdrDecode b with
  | error _ => simp
  | ok h =>
    cases hr : decodeRegion c port h.encrypt h.length.toNat (b.drop hdrWire) <;> simp [hr, eq_comm (a := r)]

end Sys2Proof.Machine
end

