-- ==== Sys2Proof/Laws/Enumerations.lean ====
section
/-! SUPPORT. The Enumerations component: what decoding, normalising and encoding by a code table can answer, said once
for any table (R90, R92, R93, R95, R98), and what each of the three tables holds. -/

namespace Sys2Proof.Machine

variable {α : Type} {names : List α} {code : α → Byte}

/-- The code of a decoded name is the byte. -/
theorem code_of_codedBy_known {b : Byte} {n : α} (h : codedBy names code b = .known n) : n ∈ names ∧ code n = b := by
  unfold codedBy at h
  split at h
  · next m hm =>
    obtain rfl : m = n := by simpa using h
    exact ⟨List.mem_of_find?_eq_some hm, by simpa using List.find?_some hm⟩
  · cases h

/-- A byte is unknown exactly when it is no name's code, and then it is kept (R96). -/
theorem codedBy_eq_unknown {b d : Byte} : codedBy names code b = .unknown d ↔ d = b ∧ b ∉ names.map code := by
  unfold codedBy
  split
  · next n hn =>
    have h1 := List.mem_of_find?_eq_some hn
    have h2 : code n = b := by simpa using List.find?_some hn
    simp only [reduceCtorEq, List.mem_map, not_exists, not_and, false_iff]
    exact fun _ h => h n h1 h2
  · next hn =>
    have : b ∉ names.map code := by simpa using hn
    simp [this, eq_comm (a := d)]

theorem isUnknown_codedBy (b : Byte) : (codedBy names code b).isUnknown = true ↔ b ∉ names.map code := by
  cases h : codedBy names code b with
  | known n =>
    obtain ⟨h1, h2⟩ := code_of_codedBy_known h
    simp only [Coded.isUnknown, Bool.false_eq_true, List.mem_map, not_exists, not_and, false_iff]
    exact fun h => h n h1 h2
  | unknown d => simpa [Coded.isUnknown] using (codedBy_eq_unknown.1 h).2

/-- With no two names sharing a code, a name's code decodes to the name (R90). -/
theorem codedBy_code (hd : (names.map code).Nodup) {n : α} (hn : n ∈ names) : codedBy names code (code n) = .known n := by
  cases h : codedBy names code (code n) with
  | known m =>
    obtain ⟨h1, h2⟩ := code_of_codedBy_known h
    rw [List.inj_on_of_nodup_map hd h1 hn h2]
  | unknown d => exact absurd (List.mem_map_of_mem hn) (codedBy_eq_unknown.1 h).2

/-- Decoding answers in normal form (R92). -/
theorem normalBy_codedBy (b : Byte) : normalBy names code (codedBy names code b) = codedBy names code b := by
  cases h : codedBy names code b with
  | known n => rfl
  | unknown d =>
    obtain ⟨rfl, -⟩ := codedBy_eq_unknown.1 h
    exact h

/-- An unknown value is emitted as its byte, whether or not the byte is a code (R92). -/
theorem encodeBy_unknown (b : Byte) : encodeBy names code (.unknown b) = b := by
  simp only [encodeBy, normalBy]
  split
  · next n h => exact (code_of_codedBy_known h).2
  · next d h => exact (codedBy_eq_unknown.1 h).1

@[simp] theorem encodeBy_known (n : α) : encodeBy names code (.known n) = code n := rfl

/-- A byte decoded and encoded again is unchanged (R92). -/
theorem encodeBy_codedBy (b : Byte) : encodeBy names code (codedBy names code b) = b := by
  cases h : codedBy names code b with
  | known n => exact (code_of_codedBy_known h).2
  | unknown d =>
    rw [encodeBy_unknown]
    exact (codedBy_eq_unknown.1 h).1

theorem mem_messageTypes (n : MessageType) : n ∈ messageTypes := by cases n <;> decide

theorem mem_commandNames (n : CommandName) : n ∈ commandNames := by cases n <;> decide

theorem mem_loginStatuses (n : LoginStatus) : n ∈ loginStatuses := by cases n <;> decide

/-- The class 3 is that of a byte that is no code of `login_status` (R98). -/
theorem lsClass_eq_three (c : Codes) (b : Byte) : lsClass c b = 3 ↔ b ∉ loginStatuses.map (lsCode c) := by
  simp only [lsClass, loginStatuses, List.map_cons, List.map_nil, List.mem_cons, List.not_mem_nil, or_false, not_or]
  split_ifs with h0 h1 h2
  · simp [h0]
  · simp [h1]
  · rcases h2 with h2 | h2 <;> simp [h2]
  · simpa [h0, h1] using h2

/-- The code tables are bijections (R90), as three facts. -/
theorem codes_wf_iff (c : Codes) : c.wf = true ↔
    (messageTypes.map (mtCode c)).Nodup ∧ (commandNames.map (cmdCode c)).Nodup ∧
    (loginStatuses.map (lsCode c)).Nodup := by
  simp [Codes.wf, and_assoc]

end Sys2Proof.Machine
end

