-- ==== Sys2Proof/Laws/Exec.lean ====
section
/-! SUPPORT. Everything an operation, a host move and a step can do, said once (inversion lemmas): later proofs cite
these and unfold no meaning. -/

namespace Sys2Proof.Machine

/-- How an operation ends (R182). -/
theorem State.finish_cases {α : Type} (s : State) (r : Except Err α) (commit : α → State) :
    (∃ a, r = .ok a ∧ s.finish r commit = commit a) ∨ (∃ e, r = .error e ∧ s.finish r commit = s.raise e) := by
  cases r with
  | ok a => exact .inl ⟨a, rfl, rfl⟩
  | error e => exact .inr ⟨e, rfl, rfl⟩

@[simp] theorem State.finish_ok {α : Type} (s : State) (a : α) (commit : α → State) :
    s.finish (.ok a) commit = commit a := rfl

@[simp] theorem State.finish_error {α : Type} (s : State) (e : Err) (commit : α → State) :
    s.finish (.error e) commit = s.raise e := rfl

/-- ENC commits a result or takes `MissingKey` (R138). -/
theorem exec_enc_cases {s t : State} (h : exec .enc s = .next t) :
    (∃ r, encResult Config.cipher s.keyPort s.h (s.content .pbuf) s.plen = .ok r ∧ t = s.commitEnc r) ∨
    (s.h.encrypt = true ∧ s.keyValid = false ∧ t = s.raise .missingKey) := by
  obtain rfl : _ = t := Host.Outcome.next.inj h
  rcases State.finish_cases s (encResult Config.cipher s.keyPort s.h (s.content .pbuf) s.plen) s.commitEnc with
    ⟨r, hr, ht⟩ | ⟨e, he, ht⟩
  · exact .inl ⟨r, hr, ht⟩
  · obtain ⟨h1, h2, rfl⟩ := encResult_eq_error.1 he
    exact .inr ⟨h1, h2, ht⟩

/-- DEC commits a result or takes one error (R142). -/
theorem exec_dec_cases {s t : State} (h : exec .dec s = .next t) :
    (∃ r, decResult Config.cipher s.keyPort (s.content .fbuf) = .ok r ∧ t = s.commitDec r) ∨
    (∃ e, decResult Config.cipher s.keyPort (s.content .fbuf) = .error e ∧ t = s.raise e) := by
  obtain rfl : _ = t := Host.Outcome.next.inj h
  exact State.finish_cases s _ s.commitDec

/-- LGN commits the parsed fields or takes `PayloadTruncated` (R161). -/
theorem exec_lgn_cases {s t : State} (h : exec .lgn s = .next t) :
    (∃ f, loginParse (s.content .pbuf) = .ok f ∧ t = s.commitLgn f) ∨
    ((s.content .pbuf).length < 25 ∧ t = s.raise .payloadTruncated) := by
  obtain rfl : _ = t := Host.Outcome.next.inj h
  rcases State.finish_cases s (loginParse (s.content .pbuf)) s.commitLgn with ⟨f, hf, ht⟩ | ⟨e, he, ht⟩
  · exact .inl ⟨f, hf, ht⟩
  · obtain ⟨h1, rfl⟩ := loginParse_eq_error.1 he
    exact .inr ⟨h1, ht⟩

/-- ENC of a region that encodes commits it (R138). -/
theorem exec_enc_of_region {s : State} {b : List Byte}
    (h : encodeRegion Config.cipher s.keyPort s.h.encrypt (s.content .pbuf) = .ok b) :
    exec .enc s =
      .next (s.commitEnc { length := s.plen, frame := hdrEncode { s.h with length := s.plen } ++ b }) := by
  show Host.Outcome.next _ = _
  rw [encResult_eq_ok.2 ⟨b, h, rfl⟩, State.finish_ok]

/-- DEC of a header and a region that decode commits them (R142). -/
theorem exec_dec_of_region {s : State} {h : Header} {p : List Byte} (h1 : hdrDecode (s.content .fbuf) = .ok h)
    (h2 : decodeRegion Config.cipher s.keyPort h.encrypt h.length.toNat ((s.content .fbuf).drop hdrWire) = .ok p) :
    exec .dec s = .next (s.commitDec
      { header := h, payload := p, used := hdrWire + regionLength h.encrypt h.length.toNat }) := by
  show Host.Outcome.next _ = _
  rw [decResult_eq_ok.2 ⟨h, p, h1, h2, rfl⟩, State.finish_ok]

/-- DEC of bytes that do not decode takes the error found first (R142, R182). -/
theorem exec_dec_of_error {s : State} {e : Err}
    (h : decResult Config.cipher s.keyPort (s.content .fbuf) = .error e) : exec .dec s = .next (s.raise e) := by
  show Host.Outcome.next _ = _
  rw [h, State.finish_error]

/-- A host move changes one piece of the state, or gives something back and changes nothing (R31). -/
theorem applyMove_cases (m : HostMove) (s : State) :
    (∃ r, (r = .refused ∨ (∃ v, r = .reg v) ∨ ∃ b, r = .bytes b) ∧ applyMove m s = s.setReply r) ∨
    (∃ h, applyMove m s = s.setHeader h) ∨
    (∃ space b, b.length ≤ spaceMax space ∧ applyMove m s = s.setSpace space b) := by
  cases m with
  | hread r => exact .inl ⟨_, .inr (.inl ⟨_, rfl⟩), rfl⟩
  | hwrite r v =>
    simp only [applyMove]
    split
    · exact .inl ⟨_, .inl rfl, rfl⟩
    · exact .inr (.inl ⟨_, rfl⟩)
  | hload space b =>
    simp only [applyMove]
    split
    · next hb => exact .inr (.inr ⟨space, b, hb, rfl⟩)
    · exact .inl ⟨_, .inl rfl, rfl⟩
  | hreadbuf space a n =>
    simp only [applyMove]
    split
    · exact .inl ⟨_, .inr (.inr ⟨_, rfl⟩), rfl⟩
    · exact .inl ⟨_, .inl rfl, rfl⟩

theorem State.fetch_eq_some {s t : State} {i : Input} :
    s.fetch = some (i, t) ↔ ∃ rest, s.inputs = i :: rest ∧ t = (s.setInputs rest).setReply .none := by
  unfold State.fetch
  cases h : s.inputs with
  | nil => simp
  | cons j rest => simp; aesop

theorem State.fetch_eq_none {s : State} : s.fetch = none ↔ s.inputs = [] := by
  unfold State.fetch
  cases h : s.inputs <;> simp

/-- The operations that an op code can start (R75). -/
theorem decodeOp_eq_ok {op : Byte} {i : Instr} : decodeOp op = .ok i ↔
    (op = 0x01 ∧ i = .initq) ∨ (op = 0x02 ∧ i = .initr) ∨ (op = 0x10 ∧ i = .enc) ∨ (op = 0x11 ∧ i = .dec) ∨
    (op = 0x20 ∧ i = .lgn) := by
  simp only [decodeOp, oneByte, decodeOpByte]
  split_ifs <;> simp_all [eq_comm]

/-- What a step can do: nothing with no input; else take one input, and run the operation, take `IllegalOp`, make the
move, change the key port or reset. -/
theorem step_cases {s t : State} (h : step s = .next t) :
    (s.inputs = [] ∧ t = s) ∨ ∃ j u, s.fetch = some (j, u) ∧
      ((∃ op i, j = .start op ∧ decodeOp op = .ok i ∧ exec i u = .next t) ∨
       (∃ op e, j = .start op ∧ decodeOp op = .error e ∧ t = u.illegalOp) ∨
       (∃ m, j = .move m ∧ t = applyMove m u) ∨
       (∃ k, j = .key k ∧ t = presentKey k u) ∨
       (j = .noKey ∧ t = presentNoKey u) ∨
       (j = .reset ∧ t = applyReset u)) := by
  unfold step at h
  split at h
  · next hn => exact .inl ⟨State.fetch_eq_none.1 hn, (Host.Outcome.next.inj h).symm⟩
  · next op u hf =>
    refine .inr ⟨_, u, hf, ?_⟩
    split at h
    · next i hi => exact .inl ⟨op, i, rfl, hi, h⟩
    · next e he => exact .inr (.inl ⟨op, e, rfl, he, (Host.Outcome.next.inj h).symm⟩)
  · next m u hf => exact .inr ⟨_, u, hf, .inr (.inr (.inl ⟨m, rfl, (Host.Outcome.next.inj h).symm⟩))⟩
  · next k u hf => exact .inr ⟨_, u, hf, .inr (.inr (.inr (.inl ⟨k, rfl, (Host.Outcome.next.inj h).symm⟩)))⟩
  · next u hf => exact .inr ⟨_, u, hf, .inr (.inr (.inr (.inr (.inl ⟨rfl, (Host.Outcome.next.inj h).symm⟩))))⟩
  · next u hf => exact .inr ⟨_, u, hf, .inr (.inr (.inr (.inr (.inr ⟨rfl, (Host.Outcome.next.inj h).symm⟩))))⟩

/-! ### STATUS -/

@[simp] theorem statusErr_statusWord (e : BitVec 3) (a b c : Bool) : statusErr (statusWord e a b c) = e := by
  revert e a b c
  decide

@[simp] theorem statusUnkMt_statusWord (e : BitVec 3) (a b c : Bool) : statusUnkMt (statusWord e a b c) = a := by
  revert e a b c
  decide

@[simp] theorem statusUnkCmd_statusWord (e : BitVec 3) (a b c : Bool) : statusUnkCmd (statusWord e a b c) = b := by
  revert e a b c
  decide

@[simp] theorem statusUnkLs_statusWord (e : BitVec 3) (a b c : Bool) : statusUnkLs (statusWord e a b c) = c := by
  revert e a b c
  decide

theorem Err.code_ne_zero (e : Err) : e.code ≠ 0 := by cases e <;> decide

/-- The code an error leaves in `STATUS.ERR` (R182). -/
@[simp] theorem statusErr_raise (s : State) (e : Err) : statusErr (s.raise e).status = e.code :=
  statusErr_statusWord _ _ _ _

/-- An ENC that reports no error has committed (R138). -/
theorem exec_enc_ok {s t : State} (h : exec .enc s = .next t) (he : statusErr t.status = 0) :
    ∃ b, encodeRegion Config.cipher s.keyPort s.h.encrypt (s.content .pbuf) = .ok b ∧
      t = s.commitEnc { length := s.plen, frame := hdrEncode { s.h with length := s.plen } ++ b } := by
  rcases exec_enc_cases h with ⟨r, hr, rfl⟩ | ⟨_, _, rfl⟩
  · obtain ⟨b, hb, rfl⟩ := encResult_eq_ok.1 hr
    exact ⟨b, hb, rfl⟩
  · rw [statusErr_raise] at he
    exact absurd he (Err.code_ne_zero _)

/-- A DEC that reports no error has committed (R142). -/
theorem exec_dec_ok {s t : State} (h : exec .dec s = .next t) (he : statusErr t.status = 0) :
    ∃ hd p, hdrDecode (s.content .fbuf) = .ok hd ∧
      decodeRegion Config.cipher s.keyPort hd.encrypt hd.length.toNat ((s.content .fbuf).drop hdrWire) = .ok p ∧
      t = s.commitDec { header := hd, payload := p, used := hdrWire + regionLength hd.encrypt hd.length.toNat } := by
  rcases exec_dec_cases h with ⟨r, hr, rfl⟩ | ⟨e, _, rfl⟩
  · obtain ⟨hd, p, h1, h2, rfl⟩ := decResult_eq_ok.1 hr
    exact ⟨hd, p, h1, h2, rfl⟩
  · rw [statusErr_raise] at he
    exact absurd he e.code_ne_zero

theorem statusLegal_error (e : Err) : StatusLegal (statusOfError e) := by
  cases e <;> unfold StatusLegal <;> decide

theorem statusLegal_clear : StatusLegal statusClear := by
  unfold StatusLegal
  decide

theorem statusLegal_header (c : Codes) (h : Header) : StatusLegal (statusOfHeader c h) := by
  unfold statusOfHeader StatusLegal
  cases (mtDecode c h.msgType).isUnknown <;> cases (cmdDecode c h.command).isUnknown <;> decide

theorem statusLegal_login (c : BitVec 2) : StatusLegal (statusOfLogin c) := by
  unfold statusOfLogin StatusLegal
  cases (c == 3) <;> decide

end Sys2Proof.Machine
end

