-- ==== Sys2Proof/Laws/PerInstr.lean ====
section
/-! SUPPORT. Families of statements with one lemma per row of the opcode table. -/

namespace Sys2Proof

/-- How many bytes an encoding takes at its place: an op code and an enumeration code one (R75, R90), the wire header 16
(R61), a payload region what R69 says, the login payload 25 (R160). -/
def Place.size : Place → Nat
  | .opPort => 1
  | .header => Machine.hdrWire
  | .payloadRegion encrypt length => Machine.regionLength encrypt length.toNat
  | .messageType => 1
  | .command => 1
  | .loginStatus => 1
  | .loginPayload => Machine.loginLen

end Sys2Proof

namespace Sys2Proof.Laws.EncodingSize

/-- A well-formed row's encoding has the size of its place, whatever the code tables. -/
def Statement (i : Instr) : Prop := ∀ c : Codes, i.wellFormed = true → (encode c i).length = i.place.size

theorem initq : Statement .initq := fun _ _ => rfl
theorem initr : Statement .initr := fun _ _ => rfl
theorem enc : Statement .enc := fun _ _ => rfl
theorem dec : Statement .dec := fun _ _ => rfl
theorem lgn : Statement .lgn := fun _ _ => rfl
theorem frameHdr16 (fields : Header) : Statement (.frameHdr16 fields) := fun _ _ => Machine.length_hdrEncode fields

theorem framePayloadRaw (payload : List Byte) : Statement (.framePayloadRaw payload) := by
  intro _ h
  have hp : payload.length ≤ 65535 := of_decide_eq_true h
  simp [encode, Instr.place, Place.size, Machine.regionLength]
  omega

theorem framePayloadCiph (length : Half) (block : List Byte) : Statement (.framePayloadCiph length block) := by
  intro _ h
  simpa [Instr.wellFormed, encode, Instr.place, Place.size, Machine.regionLength] using h

theorem messageTypeIpResponse : Statement .messageTypeIpResponse := fun _ _ => rfl
theorem messageTypeSerialPassthroughResponse : Statement .messageTypeSerialPassthroughResponse := fun _ _ => rfl
theorem messageTypeIpRequest : Statement .messageTypeIpRequest := fun _ _ => rfl
theorem messageTypeSerialPassthroughRequest : Statement .messageTypeSerialPassthroughRequest := fun _ _ => rfl
theorem commandIpAuthentication : Statement .commandIpAuthentication := fun _ _ => rfl
theorem commandF2 : Statement .commandF2 := fun _ _ => rfl
theorem commandF3 : Statement .commandF3 := fun _ _ => rfl
theorem commandF4 : Statement .commandF4 := fun _ _ => rfl
theorem commandF5 : Statement .commandF5 := fun _ _ => rfl
theorem commandF8 : Statement .commandF8 := fun _ _ => rfl
theorem commandFB : Statement .commandFB := fun _ _ => rfl
theorem commandPanelCommunication : Statement .commandPanelCommunication := fun _ _ => rfl
theorem loginStatusSuccess : Statement .loginStatusSuccess := fun _ _ => rfl
theorem loginStatusInvalidPassword : Statement .loginStatusInvalidPassword := fun _ _ => rfl
theorem loginStatusUserAlreadyConnected : Statement .loginStatusUserAlreadyConnected := fun _ _ => rfl
theorem loginStatusUserAlreadyConnected1 : Statement .loginStatusUserAlreadyConnected1 := fun _ _ => rfl
theorem login25 (fields : LoginFields) : Statement (.login25 fields) := by
  intro _ _
  simp [encode, Instr.place, Place.size, Machine.loginBytes, Machine.loginLen]

end Sys2Proof.Laws.EncodingSize
end

