-- ==== Sys2Proof/Tests/Slice0.lean ====
section
/-! SUPPORT. The model's own tests. Every expected value is copied from spec/ (the id of the vector of
`95_test_vectors.md`, or the rule, stands beside it), none from the model. The vectors' stand-in cipher XOR16 is defined
here. After the tests stand the witnesses: for every statement with hypotheses, states and operands that meet them. -/

namespace Sys2Proof.Tests

open Sys2Proof Sys2Proof.Machine

/-! ### Helpers -/

/-- The state a step or an operation ends in. -/
def after : Host.Outcome State Fault Refusal → State
  | .next s => s
  | .fault _ => State.reset
  | .refused _ => State.reset

/-- XOR16 (`95_test_vectors.md` section 1). -/
def xor16 : Cipher := fun k m =>
  Function.Involutive.toPerm (fun x => ⟨x.val.mapIdx (fun i b => b ^^^ k[i % 16]'(by omega)), by simp⟩) (by
    intro x
    apply Subtype.ext
    apply List.ext_getElem <;> simp [List.getElem_mapIdx])

/-- IDENT (`95_test_vectors.md` section 1). -/
def ident : Cipher := fun _ _ => Equiv.refl _

def k1 : Key := #v[0x10, 0x11, 0x12, 0x13, 0x14, 0x15, 0x16, 0x17, 0x18, 0x19, 0x1A, 0x1B, 0x1C, 0x1D, 0x1E, 0x1F]

def k2 : Key := Vector.replicate 16 0xFF

def port1 : KeyPort := { valid := true, key := k1 }

def port2 : KeyPort := { valid := true, key := k2 }

def noPort : KeyPort := { valid := false, key := k1 }

/-- The header registers as the vectors list them, `LENGTH` first. -/
def hdr (n : Half) (mt fl cmd sub u1 u2 : Byte) : Header :=
  { length := n, msgType := mt, flags := fl, command := cmd, subCommand := sub, unknown1 := u1, unknown2 := u2 }

/-- The reset state with a payload. -/
def withPayload (p : List Byte) : State := State.reset.setPbuf p

/-- The reset state with a clear flags byte and a payload. -/
def clearPayload (p : List Byte) : State := (State.reset.setHeader (hdr 0 0x03 0x08 0 0 0 0)).setPbuf p

/-- The reset state with a frame in `FBUF`. -/
def withFrame (b : List Byte) : State := State.reset.setFbuf b

/-- The same with the key K1 presented. -/
def withKey (s : State) : State := s.setKeyPort port1

/-- The reset state with these inputs to come. -/
def withInputs (l : List Input) : State := State.reset.setInputs l

/-- The 16 header bytes of E1 and E4's family: clear, with this length byte. -/
def clearHeader (n : Byte) : List Byte := [0xAA, n, 0, 0x03, 0x08, 0, 0, 0, 0] ++ List.replicate 7 0xEE

/-- The 16 header bytes of E2 and E3's family: encrypted, with this length byte. -/
def encHeader (n : Byte) : List Byte := [0xAA, n, 0, 0x03, 0x09, 0, 0, 0, 0] ++ List.replicate 7 0xEE

/-- The ciphertext of X2. -/
def x2 : List Byte :=
  [0x11, 0x13, 0x11, 0xFD, 0xFA, 0xFB, 0xF8, 0xF9, 0xF6, 0xF7, 0xF4, 0xF5, 0xF2, 0xF3, 0xF0, 0xF1]

/-- The payload of L1. -/
def l1 : List Byte :=
  [0x00, 0xA0, 0xA1, 0xA2, 0xA3, 0xA4, 0xA5, 0xA6, 0xA7, 0xA8, 0xA9, 0xAA, 0xAB, 0xAC, 0xAD, 0xAE, 0xAF, 0x00, 0x20,
    0x05, 0x02, 0x71, 0x00, 0x12, 0x34]

def l1Key : Key :=
  #v[0xA0, 0xA1, 0xA2, 0xA3, 0xA4, 0xA5, 0xA6, 0xA7, 0xA8, 0xA9, 0xAA, 0xAB, 0xAC, 0xAD, 0xAE, 0xAF]

/-- The fields of L1. -/
def l1Fields : LoginFields :=
  { status := 0x00, key := l1Key, hwver := 0x0020, fwMajor := 0x05, fwMinor := 0x02,
    serial := #v[0x71, 0x00, 0x12, 0x34] }

/-! ### WellFormed: an ill-formed term for each check is refused -/

/-- A payload of so many bytes, whatever they are. -/
theorem raw_wellFormed (p : List Byte) (n : Nat) (h : p.length = n) :
    (Instr.framePayloadRaw p).wellFormed = decide (n ≤ 65535) := by
  subst h
  rfl

theorem test_raw_payload_over_pmax_refused : (Instr.framePayloadRaw (List.replicate 65536 0)).wellFormed = false :=
  (raw_wellFormed _ 65536 (List.length_replicate ..)).trans (by decide)

theorem test_raw_payload_at_pmax_accepted : (Instr.framePayloadRaw (List.replicate 65535 0)).wellFormed = true :=
  (raw_wellFormed _ 65535 (List.length_replicate ..)).trans (by decide)

theorem test_ciph_block_one_byte_short_refused :
    (Instr.framePayloadCiph 3 (List.replicate 15 0)).wellFormed = false := by decide

theorem test_ciph_block_one_block_long_refused :
    (Instr.framePayloadCiph 16 (List.replicate 32 0)).wellFormed = false := by decide

theorem test_ciph_block_aligned_accepted : (Instr.framePayloadCiph 17 (List.replicate 32 0)).wellFormed = true := by
  decide

/-! ### Decode: a word of every row, written out from the spec's encoding -/

/-- R75. -/
theorem test_decode_operations :
    decodeAt defaultCodes .opPort [0x01] = .ok .initq ∧ decodeAt defaultCodes .opPort [0x02] = .ok .initr ∧ decodeAt defaultCodes .opPort [0x10] = .ok .enc ∧
    decodeAt defaultCodes .opPort [0x11] = .ok .dec ∧ decodeAt defaultCodes .opPort [0x20] = .ok .lgn := by decide

/-- R76: the neighbours of the assigned codes are not assigned. -/
theorem test_decode_unassigned :
    [0x00, 0x03, 0x0F, 0x12, 0x1F, 0x21, 0x30, 0xFF].all
      (fun op => decodeOp op == .error (.unassignedOp op)) = true := by decide

/-- R91 (N1). -/
theorem test_decode_message_types :
    decodeAt defaultCodes .messageType [0x01] = .ok .messageTypeIpResponse ∧
    decodeAt defaultCodes .messageType [0x02] = .ok .messageTypeSerialPassthroughResponse ∧
    decodeAt defaultCodes .messageType [0x03] = .ok .messageTypeIpRequest ∧
    decodeAt defaultCodes .messageType [0x04] = .ok .messageTypeSerialPassthroughRequest ∧
    decodeAt defaultCodes .messageType [0x7E] = .error (.unknownCode 0x7E) := by decide

/-- R94 (N2, N5). -/
theorem test_decode_commands :
    decodeAt defaultCodes .command [0xF0] = .ok .commandIpAuthentication ∧ decodeAt defaultCodes .command [0xF2] = .ok .commandF2 ∧
    decodeAt defaultCodes .command [0xF3] = .ok .commandF3 ∧ decodeAt defaultCodes .command [0xF4] = .ok .commandF4 ∧
    decodeAt defaultCodes .command [0xF5] = .ok .commandF5 ∧ decodeAt defaultCodes .command [0xF8] = .ok .commandF8 ∧
    decodeAt defaultCodes .command [0xFB] = .ok .commandFB ∧ decodeAt defaultCodes .command [0x00] = .ok .commandPanelCommunication ∧
    decodeAt defaultCodes .command [0xF1] = .error (.unknownCode 0xF1) := by decide

/-- R97 (N3, N6). -/
theorem test_decode_login_statuses :
    decodeAt defaultCodes .loginStatus [0x00] = .ok .loginStatusSuccess ∧
    decodeAt defaultCodes .loginStatus [0x01] = .ok .loginStatusInvalidPassword ∧
    decodeAt defaultCodes .loginStatus [0x02] = .ok .loginStatusUserAlreadyConnected ∧
    decodeAt defaultCodes .loginStatus [0x04] = .ok .loginStatusUserAlreadyConnected1 ∧
    decodeAt defaultCodes .loginStatus [0x03] = .error (.unknownCode 0x03) := by decide

/-- R61, R63, with every field at a value of its own: `length` = 0x2C + 256 * 0x01 = 300; the pad is not `0xEE` (R66). -/
theorem test_decode_header :
    decodeAt defaultCodes .header [0xAA, 0x2C, 0x01, 0x03, 0xFF, 0xF0, 0x11, 0x22, 0x33, 0, 0, 0, 0, 0, 0, 0] =
      .ok (.frameHdr16 (hdr 300 0x03 0xFF 0xF0 0x11 0x22 0x33)) := by decide

/-- R67: exactly `length` bytes, later ones not among them. -/
theorem test_decode_raw_region :
    decodeAt defaultCodes (.payloadRegion false 2) [0x55, 0x66, 0x77] = .ok (.framePayloadRaw [0x55, 0x66]) ∧
    decodeAt defaultCodes (.payloadRegion false 3) [0x55, 0x66] = .error .truncated := by decide

/-- R68: `align16(length)` bytes. -/
theorem test_decode_ciph_region :
    decodeAt defaultCodes (.payloadRegion true 3) (x2 ++ [0x77]) = .ok (.framePayloadCiph 3 x2) ∧
    decodeAt defaultCodes (.payloadRegion true 3) (x2.take 15) = .error .truncated := by decide

/-- R160 (L1). -/
theorem test_decode_login_payload : decodeAt defaultCodes .loginPayload l1 = .ok (.login25 l1Fields) := by decide

/-- R25, R75: the table's words as the `OP` port takes them. -/
theorem test_table_words :
    decodeTableWord 8 0x01 = some .initq ∧ decodeTableWord 8 0x20 = some .lgn ∧ decodeTableWord 8 0xF2 = none ∧
    decodeTableWord 16 0x0010 = none := by decide

/-- R61, R120 (H4): the encoder's header. -/
theorem test_encode_header :
    encode defaultCodes (.frameHdr16 (hdr 65535 0x03 0xFF 0x00 0x11 0x22 0x33)) =
      [0xAA, 0xFF, 0xFF, 0x03, 0xFF, 0x00, 0x11, 0x22, 0x33, 0xEE, 0xEE, 0xEE, 0xEE, 0xEE, 0xEE, 0xEE] := by decide

/-! ### Alignment arithmetic and byte order (section 3.1) -/

theorem test_align16 :
    [0, 1, 3, 15, 16, 17, 25, 300, 65520, 65535].map align16 = [0, 16, 16, 16, 16, 32, 32, 304, 65520, 65536] := by
  decide

theorem test_le16 : le16 300 = [0x2C, 0x01] ∧ le16 256 = [0x00, 0x01] ∧ fromLe16 0x2C 0x01 = 300 := by decide

/-- L8: big-endian. -/
theorem test_be16 : fromBe16 0x12 0x34 = 0x1234 ∧ be16 0x1234 = [0x12, 0x34] := by decide

/-! ### Enumerations (section 3.2) -/

/-- N6. -/
theorem test_ls_class : ([0x00, 0x01, 0x02, 0x03, 0x04, 0x05, 0xFF].map (lsClass defaultCodes) : List (BitVec 2)) =
    [0, 1, 2, 3, 2, 3, 3] := by decide

/-- N4, N5. -/
theorem test_unknown_codes_kept_raw :
    mtDecode defaultCodes 0x05 = .unknown 0x05 ∧ mtEncode defaultCodes (.unknown 0x7E) = 0x7E ∧
    cmdDecode defaultCodes 0x99 = .unknown 0x99 := by decide

/-- R92: `Unknown` of a code is normalised to `Known`, with the same wire byte. -/
theorem test_unknown_of_a_code_normalised :
    mtNormal defaultCodes (.unknown 0x03) = .known .ipRequest ∧ mtEncode defaultCodes (.unknown 0x03) = 0x03 ∧
    mtNormal defaultCodes (.unknown 0x7E) = .unknown 0x7E := by decide

/-- An instance with another code for `ip_response` and for `success` (D6). -/
def otherCodes : Codes := { defaultCodes with ipResponse := 0x81, success := 0x80 }

/-- R157: "a model that takes another value for that parameter loads that value here"; R93, R98 with that table. -/
theorem test_other_codes :
    otherCodes.wf = true ∧ (after (exec .initr (State.resetWith otherCodes))).h.msgType = 0x81 ∧
    mtDecode otherCodes 0x01 = .unknown 0x01 ∧ lsClass otherCodes 0x00 = 3 ∧ lsClass otherCodes 0x80 = 0 := by decide

/-- R90: a table in which two names share a code is no bijection. -/
theorem test_shared_code_refused : { defaultCodes with ipResponse := 0x03 : Codes }.wf = false := by decide

/-! ### Encryption Transform (section 3.3) -/

/-- X2, and X3: no pad for an aligned payload. -/
theorem test_xf_encrypt :
    xfEncrypt xor16 [0x01, 0x02, 0x03] k1 = x2 ∧ xfEncrypt xor16 (List.replicate 16 0) k1 = k1.toList := by decide

/-- X5, X7, and X9: a wrong key is no error. -/
theorem test_xf_decrypt :
    xfDecrypt xor16 x2 (by decide) k1 3 = [0x01, 0x02, 0x03] ∧
    xfDecrypt xor16 x2 (by decide) k1 16 = [0x01, 0x02, 0x03] ++ List.replicate 13 0xEE ∧
    xfDecrypt xor16 x2 (by decide) k2 3 = [0xEE, 0xEC, 0xEE] := by decide

/-- X10. -/
theorem test_xf_ident : xfEncrypt ident [0x01, 0x02, 0x03] k2 = [0x01, 0x02, 0x03] ++ List.replicate 13 0xEE := by
  decide

/-! ### Header Codec (section 3.4) -/

/-- H5, H6. -/
theorem test_hdr_decode :
    hdrDecode [0xAA, 0x02, 0x00, 0x7E, 0xFE, 0x99, 0x01, 0x02, 0x03, 0, 0, 0, 0, 0, 0, 0] =
      .ok (hdr 2 0x7E 0xFE 0x99 0x01 0x02 0x03) ∧
    hdrDecode (0xAB :: (encHeader 3).tail) = .error .invalidHeader := by decide

/-- H7: 15 bytes. -/
theorem test_hdr_decode_short : hdrDecode ((encHeader 3).take 15) = .error .invalidHeader := by decide

/-! ### ENC (section 3.5): the clear path on the machine, the encrypted path with the vectors' cipher -/

/-- E1, E9's stale length: the frame, `FLEN`, `H.LENGTH`, `STATUS`. -/
theorem test_enc_clear :
    let t := after (exec .enc ((State.reset.setHeader (hdr 0x1234 0x03 0x08 0 0 0 0)).setPbuf [0x01, 0x02, 0x03]))
    t.content .fbuf = clearHeader 3 ++ [0x01, 0x02, 0x03] ∧ t.flen = 19 ∧ t.h.length = 3 ∧ t.status = 0x00 := by
  decide

/-- E2 and E6: reserved flag bits carried, no extra block. -/
theorem test_enc_encrypted :
    encResult xor16 port1 (hdr 0 0x03 0x09 0 0 0 0) [0x01, 0x02, 0x03] 3 =
      .ok { length := 3, frame := encHeader 3 ++ x2 } ∧
    encResult xor16 port1 (hdr 0 0x03 0xFF 0 0x11 0x22 0x33) (List.replicate 16 0) 16 =
      .ok
        { length := 16
          frame := [0xAA, 0x10, 0, 0x03, 0xFF, 0, 0x11, 0x22, 0x33] ++ List.replicate 7 0xEE ++ k1.toList } := by
  decide

/-! ### DEC (section 3.6) -/

/-- D11: trailing byte ignored, pad accepted, unknown codes flagged. -/
theorem test_dec_clear :
    let t := after (exec .dec (withFrame ([0xAA, 0x02, 0x00, 0x7E, 0xFE, 0x99, 0x01, 0x02, 0x03] ++ List.replicate 7 0 ++
      [0x55, 0x66, 0x77])))
    t.h = hdr 2 0x7E 0xFE 0x99 0x01 0x02 0x03 ∧ t.content .pbuf = [0x55, 0x66] ∧ t.consumed = 18 ∧
    t.status = 0x30 := by decide

/-- D2, D3. -/
theorem test_dec_encrypted :
    decResult xor16 port1 (encHeader 3 ++ x2) =
      .ok { header := hdr 3 0x03 0x09 0 0 0 0, payload := [0x01, 0x02, 0x03], used := 32 } ∧
    decResult xor16 port2 (encHeader 3 ++ x2) =
      .ok { header := hdr 3 0x03 0x09 0 0 0 0, payload := [0xEE, 0xEC, 0xEE], used := 32 } := by decide

/-! ### INITQ, INITR, LGN, the errors (sections 3.7 to 3.9) -/

/-- I1, from a state with other values. -/
theorem test_initq : (after (exec .initq (State.reset.setHeader (hdr 9 9 9 9 9 9 9)))).h = hdr 0 0x03 0x09 0 0 0 0 := by
  decide

/-- I2. -/
theorem test_initr : (after (exec .initr State.reset)).h = hdr 0 0x01 0x09 0 0 0 0x03 := by decide

/-- L1. -/
theorem test_lgn :
    (after (exec .lgn (withPayload l1))).lr = { fields := l1Fields, cls := 0 } ∧
    (after (exec .lgn (withPayload l1))).status = 0x00 := by decide

/-- L4 and L7. -/
theorem test_lgn_unknown_and_short :
    (after (exec .lgn (withPayload (0x03 :: List.replicate 24 0)))).status = 0x40 ∧
    (after (exec .lgn (withPayload (0x02 :: List.replicate 23 0)))).status = 0x03 := by decide

/-- E7, D5, D8, D9 (with a key), D10: each error's code, in the order of R181. -/
theorem test_errors :
    (after (exec .enc (withPayload [0x01, 0x02, 0x03]))).status = 0x02 ∧
    (after (exec .dec (withFrame (0xAB :: (encHeader 3).tail)))).status = 0x01 ∧
    (after (exec .dec (withFrame (encHeader 3 ++ [0x11, 0x13])))).status = 0x02 ∧
    decResult xor16 port1 (encHeader 3 ++ [0x11, 0x13]) = .error .payloadTruncated ∧
    (after (exec .dec (withFrame (clearHeader 3 ++ [0x11, 0x13])))).status = 0x03 := by decide

/-! ### The rows that are encodings of data (log 7) -/

/-- E2's region with K2 (X9) and K1 (X5). -/
theorem test_ciph_region :
    decodeCiph xor16 port2 3 x2 = .ok [0xEE, 0xEC, 0xEE] ∧ decodeCiph xor16 port1 3 x2 = .ok [0x01, 0x02, 0x03] ∧
    decodeCiph xor16 noPort 3 [] = .error .missingKey := by decide

/-- N3, N6. -/
theorem test_login_status_row :
    (after (exec .loginStatusUserAlreadyConnected1 State.reset)).reply =
      .loginStatus (.known .userAlreadyConnected1) 2 := by decide

/-! ### Steps, host moves, key provider, reset -/

/-- O1, by way of a fetch. -/
theorem test_step_illegal_op : step (State.reset.withFetchWord 8 0xFF) = .next { State.reset with status := 0x04 } := by
  rfl

/-- R75, R157: a fetched op code runs its operation. -/
theorem test_step_runs_initr : (after (step (State.reset.withFetchWord 8 0x02))).h = hdr 0 0x01 0x09 0 0 0 0x03 := by
  decide

/-- R31, R11: a value that fits, one too wide, `H.SOF`. -/
theorem test_hwrite :
    (applyMove (.hwrite .flags 0x08) State.reset).h = hdr 0 0x03 0x08 0 0 0 0 ∧
    applyMove (.hwrite .flags 0x100) State.reset = State.reset.setReply .refused ∧
    applyMove (.hwrite .sof 0x100) State.reset = State.reset := by decide

/-- R31, R41: inside the length, and one byte beyond it. -/
theorem test_hreadbuf :
    (applyMove (.hreadbuf .pbuf 1 2) (withPayload [1, 2, 3])).reply = .bytes [2, 3] ∧
    (applyMove (.hreadbuf .pbuf 2 2) (withPayload [1, 2, 3])).reply = .refused := by decide

/-- R200, R32: the block is at its reset values. -/
theorem test_reset_input :
    (after (step ((clearPayload [1, 2, 3]).setInputs [.reset]))) = State.reset := by decide

/-! ### Witnesses: states and operands that meet a statement's hypotheses, each clause at the edge of its range -/

theorem witness_stepRunsDecodedOperation :
    (withInputs [.start 0x10, .noKey]).inputs = .start 0x10 :: [.noKey] ∧ decodeOp 0x10 = .ok .enc := by decide

/-- O1: the codes beside the assigned ones. -/
theorem witness_unassignedOp :
    (withInputs [.start 0x00]).inputs = [.start 0x00] ∧
    ∀ op ∈ [0x00#8, 0x03#8, 0x0F#8, 0x12#8, 0x1F#8, 0x21#8, 0xFF#8],
      op ∉ [0x01#8, 0x02#8, 0x10#8, 0x11#8, 0x20#8] := by decide

theorem witness_decodeEncodeAgree :
    defaultCodes.wf = true ∧ (Instr.framePayloadCiph 17 (List.replicate 32 0)).wellFormed = true ∧
    (Instr.framePayloadRaw []).wellFormed = true ∧ (Instr.login25 l1Fields).wellFormed = true := by decide

/-- Both clauses, at each place. -/
theorem witness_oneByteCodes :
    decodeAt defaultCodes .opPort [0x20] = .ok .lgn ∧
    decodeAt defaultCodes .messageType [0x04] = .ok .messageTypeSerialPassthroughRequest ∧
    decodeAt defaultCodes .command [0x00] = .ok .commandPanelCommunication ∧
    decodeAt defaultCodes .loginStatus [0x04] = .ok .loginStatusUserAlreadyConnected1 ∧ defaultCodes.wf = true ∧
    ∀ i ∈ [Instr.lgn, .messageTypeIpRequest, .commandFB, .loginStatusSuccess],
      i.place ∈ [Place.opPort, .messageType, .command, .loginStatus] := by decide

theorem witness_inv : Inv (withInputs [.start 0x10]) ∧ ∃ t, step (withInputs [.start 0x10]) = .next t := by
  refine ⟨⟨by decide, ?_, .inl rfl, .inl rfl, by decide, trivial⟩, _, rfl⟩
  unfold StatusLegal
  decide

theorem witness_resetInput : (withInputs [.reset, .start 0x01]).inputs = .reset :: [.start 0x01] := by decide

/-- ENC's three branches: no key, a key, clear; and a payload of `PMAX` bytes. -/
theorem witness_enc :
    ((withPayload [1, 2, 3]).mem.wf = true ∧ (withPayload [1, 2, 3]).h.flags.getLsbD 0 = true ∧
      (withPayload [1, 2, 3]).keyValid = false) ∧
    ((withKey (withPayload [])).mem.wf = true ∧ (withKey (withPayload [])).h.flags.getLsbD 0 = true ∧
      (withKey (withPayload [])).keyValid = true) ∧
    ((clearPayload [1]).mem.wf = true ∧ (clearPayload [1]).h.flags.getLsbD 0 = false) ∧
    (withPayload (List.replicate 65535 0)).mem.wf = true :=
  ⟨by decide, by decide, by decide,
    State.setPbuf_wf (by decide) (by rw [List.length_replicate]; decide)⟩

/-- DEC's first clause: 15 bytes (D6), and 16 with another marker (D5). -/
theorem witness_dec_invalidHeader :
    ((withFrame ((clearHeader 3).take 15)).content .fbuf).length < 16 ∧
    (((withFrame (0xAB :: (clearHeader 3).tail)).content .fbuf).length = 16 ∧
      ((withFrame (0xAB :: (clearHeader 3).tail)).content .fbuf)[0]? ≠ some 0xAA) := by decide

/-- DEC's second clause, in each branch at its edge: no key; 15 and 16 of 16 region bytes with a key; 2 and 3 of 3 region
bytes clear; the empty payload. -/
theorem witness_dec :
    (∀ region ∈ [[], x2.take 15, x2],
      (withFrame (encHeader 3 ++ region)).content .fbuf =
        [0xAA, 3, 0, 0x03, 0x09, 0, 0, 0, 0] ++ List.replicate 7 0xEE ++ region ∧
      (withKey (withFrame (encHeader 3 ++ region))).content .fbuf =
        [0xAA, 3, 0, 0x03, 0x09, 0, 0, 0, 0] ++ List.replicate 7 0xEE ++ region) ∧
    (∀ region ∈ [[], [1, 2], [1, 2, 3], [1, 2, 3, 4]],
      (withFrame (clearHeader 3 ++ region)).content .fbuf =
        [0xAA, 3, 0, 0x03, 0x08, 0, 0, 0, 0] ++ List.replicate 7 0xEE ++ region) ∧
    (List.replicate 7 0xEE : List Byte).length = 7 ∧ (0x09 : Byte).getLsbD 0 = true ∧ (0x08 : Byte).getLsbD 0 = false ∧
    (withFrame []).keyValid = false ∧ (withKey (withFrame [])).keyValid = true ∧ (x2.take 15).length < align16 3 ∧
    x2.length = align16 3 := by decide

/-- LGN's clauses: 24 bytes; 25 bytes. -/
theorem witness_lgn :
    ((withPayload (l1.take 24)).content .pbuf).length < 25 ∧
    (withPayload l1).content .pbuf =
      [0x00] ++ l1Key.toList ++ [0x00, 0x20, 0x05, 0x02] ++ [0x71, 0x00, 0x12, 0x34] ++ [] ∧
    l1Key.toList.length = 16 := by decide

/-- Every operation ends in a next state, from any state. -/
theorem witness_operations (s : State) :
    ∀ i ∈ [Instr.initq, .initr, .enc, .dec, .lgn], ∃ t, exec i s = .next t := by
  intro i hi
  simp only [List.mem_cons, List.not_mem_nil, or_false] at hi
  rcases hi with rfl | rfl | rfl | rfl | rfl <;> exact ⟨_, rfl⟩

/-- Operations that end in each error (for the statements about `STATUS.ERR` and about what an error leaves). -/
theorem witness_errors :
    statusErr (after (exec .dec (withFrame []))).status = 1 ∧
    statusErr (after (exec .enc (withPayload []))).status = 2 ∧
    statusErr (after (exec .dec (withFrame (encHeader 3)))).status = 2 ∧
    statusErr (after (exec .lgn (withPayload []))).status = 3 ∧
    statusErr (after (exec .dec (withFrame (clearHeader 1)))).status = 3 := by decide

/-- The clauses of the error priority: header; key before length in DEC; key in ENC; length, clear and encrypted. -/
theorem witness_errorPriority :
    ((withFrame []).content .fbuf).length < 16 ∧
    (let s := withFrame (encHeader 3);
      16 ≤ (s.content .fbuf).length ∧ (s.content .fbuf)[0]? = some 0xAA ∧
      ((s.content .fbuf).getD 4 0).getLsbD 0 = true ∧ s.keyValid = false) ∧
    ((withPayload []).h.flags.getLsbD 0 = true ∧ (withPayload []).keyValid = false) ∧
    (let s := withKey (withFrame (encHeader 3 ++ x2.take 15));
      16 ≤ (s.content .fbuf).length ∧ (s.content .fbuf)[0]? = some 0xAA ∧ s.keyValid = true ∧
      (s.content .fbuf).length < 16 + regionLength (((s.content .fbuf).getD 4 0).getLsbD 0)
        (((s.content .fbuf).getD 1 0).toNat + 256 * ((s.content .fbuf).getD 2 0).toNat)) ∧
    (let s := withFrame (clearHeader 3 ++ [1, 2]);
      16 ≤ (s.content .fbuf).length ∧ ((s.content .fbuf).getD 4 0).getLsbD 0 = false ∧
      (s.content .fbuf).length < 16 + regionLength (((s.content .fbuf).getD 4 0).getLsbD 0)
        (((s.content .fbuf).getD 1 0).toNat + 256 * ((s.content .fbuf).getD 2 0).toNat)) := by decide

/-- An ENC of a clear message, with known codes and with unknown ones, that reports no error. -/
theorem witness_enc_ok :
    (∃ t, exec .enc (clearPayload [1, 2, 3]) = .next t ∧ statusErr t.status = 0) ∧
    (∃ t, exec .enc ((State.reset.setHeader (hdr 0 0x7E 0x08 0x99 0 0 0)).setPbuf []) = .next t ∧
      statusErr t.status = 0) := ⟨⟨_, rfl, by decide⟩, _, rfl, by decide⟩

/-- Codes `0x7E` and `0x99`, unknown, in a clear message and in a clear frame of exactly the length it needs. -/
theorem witness_unknownCodes :
    (State.reset.setHeader (hdr 0 0x7E 0x08 0x99 0 0 0)).h.flags.getLsbD 0 = false ∧
    (withFrame ([0xAA, 2, 0, 0x7E, 0x08, 0x99, 0, 0, 0] ++ List.replicate 7 0 ++ [0x55, 0x66])).content .fbuf =
      [0xAA, 2, 0, 0x7E, 0x08, 0x99, 0, 0, 0] ++ List.replicate 7 0 ++ [0x55, 0x66] ∧
    (List.replicate 7 (0 : Byte)).length = 7 ∧ (0x08 : Byte).getLsbD 0 = false ∧
    (2 : Byte).toNat + 256 * (0 : Byte).toNat ≤ ([0x55, 0x66] : List Byte).length := by decide

/-- An LGN of 25 bytes that reports no error, with a known status byte and with the unknown `0x03` (L1, L4). -/
theorem witness_lgn_ok :
    (∃ t, exec .lgn (withPayload l1) = .next t ∧ statusErr t.status = 0) ∧
    (∃ t, exec .lgn (withPayload (0x03 :: List.replicate 24 0)) = .next t ∧ statusErr t.status = 0) ∧
    25 ≤ ((withPayload l1).content .pbuf).length := ⟨⟨_, rfl, by decide⟩, ⟨_, rfl, by decide⟩, by decide⟩

/-- An ENC of an encrypted message with a key that reports no error, whichever the cipher. -/
theorem witness_enc_ok_encrypted :
    ∃ t, exec .enc (withKey (withPayload [1, 2, 3])) = .next t ∧ statusErr t.status = 0 :=
  ⟨_, rfl, rfl⟩

/-- An encrypt bit and a key, for the statement about what the cipher is handed: an unaligned and an aligned payload. -/
theorem witness_encrypted :
    (withKey (withPayload [1, 2, 3])).h.flags.getLsbD 0 = true ∧ (withKey (withPayload [1, 2, 3])).keyValid = true ∧
    (withKey (withPayload (List.replicate 16 0))).h.flags.getLsbD 0 = true := by decide

/-- A DEC of a clear frame (exact, and with bytes after it) that reports no error and leaves the encrypt bit 0. -/
theorem witness_dec_ok :
    (∃ t, exec .dec (withFrame (clearHeader 3 ++ [1, 2, 3])) = .next t ∧ statusErr t.status = 0 ∧
      t.h.flags.getLsbD 0 = false) ∧
    (∃ t, exec .dec (withFrame (clearHeader 3 ++ [1, 2, 3, 4])) = .next t ∧ statusErr t.status = 0 ∧
      t.h.flags.getLsbD 0 = false) := ⟨⟨_, rfl, by decide, by decide⟩, _, rfl, by decide, by decide⟩

/-- A DEC of an encrypted frame with a key: the header decodes, the key is there, the region is just long enough. -/
theorem witness_dec_ok_encrypted :
    let s := withKey (withFrame (encHeader 3 ++ x2))
    hdrDecode (s.content .fbuf) = .ok (hdr 3 0x03 0x09 0 0 0 0) ∧ s.keyValid = true ∧
    (hdr 3 0x03 0x09 0 0 0 0).flags.getLsbD 0 = true ∧ 16 + align16 3 ≤ (s.content .fbuf).length := by decide

/-- Statements over all code tables that are bijections: the default one is, and so is another. -/
theorem witness_codes : State.reset.codes.wf = true ∧ otherCodes.wf = true := by decide

theorem witness_alreadyConnected :
    (withPayload (0x02 :: List.replicate 24 0)).codes.wf = true ∧
    (withPayload (0x02 :: List.replicate 24 0)).content .pbuf = 0x02 :: List.replicate 24 0 ∧
    (withPayload (0x04 :: List.replicate 24 0)).content .pbuf = 0x04 :: List.replicate 24 0 ∧
    24 ≤ (List.replicate 24 (0 : Byte)).length ∧ (0x02 : Byte) ∈ [0x02#8, 0x04#8] ∧
    (0x04 : Byte) ∈ [0x02#8, 0x04#8] := by decide

theorem witness_keyNotRead :
    State.reset.keyValid = false ∧ ∃ t, exec (.framePayloadCiph 3 x2) State.reset = .next t := ⟨by decide, _, rfl⟩

/-- Both clauses: a clear `H.FLAGS` with ENC, a clear frame with DEC. -/
theorem witness_clearMessages :
    ((clearPayload [1]).h.flags.getLsbD 0 = false ∧ ∃ t, exec .enc (clearPayload [1]) = .next t) ∧
    ((((withFrame (clearHeader 0)).content .fbuf).getD 4 0).getLsbD 0 = false ∧
      ∃ t, exec .dec (withFrame (clearHeader 0)) = .next t) := ⟨⟨by decide, _, rfl⟩, by decide, _, rfl⟩

/-- The header round trip's second clause: H5. -/
theorem witness_headerRoundTrip :
    hdrDecode [0xAA, 0x02, 0x00, 0x7E, 0xFE, 0x99, 0x01, 0x02, 0x03, 0, 0, 0, 0, 0, 0, 0] =
      .ok (hdr 2 0x7E 0xFE 0x99 0x01 0x02 0x03) := by decide

theorem witness_clearRoundTrip :
    (clearPayload [1, 2, 3]).mem.wf = true ∧ (clearPayload [1, 2, 3]).h.flags.getLsbD 0 = false := by decide

theorem witness_encryptedRoundTrip :
    let s := withKey (withPayload [1, 2, 3])
    let u := withKey State.reset
    s.mem.wf = true ∧ s.h.flags.getLsbD 0 = true ∧ s.keyValid = true ∧ u.keyValid = true ∧ u.key = s.key := by decide

/-- Each of the moves, the write that fits and the one too wide by one, the load of `PMAX` bytes and of one more. -/
theorem witness_moves :
    (withInputs [.move (.hwrite .length 0xFFFF)]).inputs = [.move (.hwrite .length 0xFFFF)] ∧
    (withInputs [.move (.hwrite .length 0x10000)]).inputs = [.move (.hwrite .length 0x10000)] ∧
    (withInputs [.move (.hwrite .unknown2 0xFF)]).inputs = [.move (.hwrite .unknown2 0xFF)] ∧
    (withInputs [.move (.hwrite .sof 0x100)]).inputs = [.move (.hwrite .sof 0x100)] ∧
    (withInputs [.move (.hload .pbuf [1, 2])]).inputs = [.move (.hload .pbuf [1, 2])] ∧
    (withInputs [.move (.hread .lrKey)]).inputs = [.move (.hread .lrKey)] ∧
    (withInputs [.move (.hreadbuf .fbuf 0 1)]).inputs = [.move (.hreadbuf .fbuf 0 1)] := by decide

theorem witness_loads :
    (List.replicate 65535 (0 : Byte)).length ≤ 65535 ∧ ¬ (List.replicate 65536 (0 : Byte)).length ≤ 65535 ∧
    (List.replicate 65552 (0 : Byte)).length ≤ 65552 ∧ ¬ (List.replicate 65553 (0 : Byte)).length ≤ 65552 := by
  simp only [List.length_replicate]
  decide

theorem witness_keyProvider :
    (withInputs [.key k1]).inputs = [.key k1] ∧ (withInputs [.noKey]).inputs = [.noKey] ∧ (withInputs []).inputs = [] := by
  decide

theorem witness_layoutRows :
    (List.replicate 7 (0xEE : Byte)).length = 7 ∧ l1Key.toList.length = 16 ∧
    ([0x71, 0x00, 0x12, 0x34] : List Byte).length = 4 := by decide

end Sys2Proof.Tests
end

section
/-! The alignment arithmetic of R9 and R48: `align16` is monotone and fixes the multiples of 16, hence it is the least
multiple of 16 above its argument. -/

namespace Sys2Proof.Machine

theorem align16_le_of_mod {n m : Nat} (hle : n ≤ m) (hm : m % 16 = 0) : align16 n ≤ m :=
  calc align16 n ≤ align16 m := align16_mono hle
    _ = m := align16_of_mod m hm

/-- Settles O58: a field per clause, the leastness from `align16` being monotone and fixing multiples of 16. -/
theorem alignmentArithmetic : Obligations.AlignmentArithmetic := by
  intro n
  have hsum : align16 n = n + padlen n := rfl
  have hpad : padlen n = (16 - n % 16) % 16 := rfl
  exact ⟨hsum, padlen_lt n, align16_mod n, fun _ => align16_le_of_mod, hpad⟩

end Sys2Proof.Machine
end

section
/-! The rules of the host's moves (R31): what a step that takes a given input is, what HWRITE does to each register, and
what a replaced buffer reads as. -/

namespace Sys2Proof.Machine

/-! ### One step, by the input it takes -/

/-- An assigned op code runs its operation on the state with the input taken (R31, R75). -/
theorem step_of_start {s : State} {op : Byte} {rest : List Input} {i : Instr}
    (hs : s.inputs = .start op :: rest) (hop : decodeOp op = .ok i) :
    step s = exec i ((s.setInputs rest).setReply .none) := by
  have hf := State.fetch_eq_some.2 ⟨rest, hs, rfl⟩
  simp only [step, hf, hop]

/-- A host move is made on the state with the input taken (R31). -/
theorem step_of_move {s : State} {m : HostMove} {rest : List Input} (hs : s.inputs = .move m :: rest) :
    step s = .next (applyMove m ((s.setInputs rest).setReply .none)) := by
  have hf := State.fetch_eq_some.2 ⟨rest, hs, rfl⟩
  simp only [step, hf]

/-! ### Registers after an update -/

variable (s : State)

/-- A written header register reads the value, at its width (R10, R31). -/
theorem readHReg_writeHReg_same (h : Header) {r : HReg} (hr : r ≠ .sof) (v : Nat) :
    readHReg (writeHReg h r v) r = if r = .length then .w16 (BitVec.ofNat 16 v) else .w8 (BitVec.ofNat 8 v) := by
  cases r
  case sof => exact absurd rfl hr
  all_goals rfl

/-- The other header registers read as before. -/
theorem readHReg_writeHReg_of_ne (h : Header) {q r : HReg} (hq : q ≠ r) (v : Nat) :
    readHReg (writeHReg h r v) q = readHReg h q := by
  cases r <;> cases q <;> simp [readHReg, writeHReg] at hq ⊢

/-- A write to one header register leaves every other register, of the header or not (R31). -/
theorem State.readReg_setHeader_writeHReg_of_ne {q : Reg} {r : HReg} (hq : q ≠ .h r) (v : Nat) :
    (s.setHeader (writeHReg s.h r v)).readReg q = s.readReg q := by
  cases q with
  | h q => exact readHReg_writeHReg_of_ne s.h (fun hqr => hq (congrArg Reg.h hqr)) v
  | _ => rfl

/-! ### HWRITE -/

/-- The first value too wide for a header register (R10). -/
theorem two_pow_hregWidth (r : HReg) : 2 ^ hregWidth r = if r = .length then 65536 else 256 := by
  cases r <;> rfl

/-- HWRITE is refused exactly when the value is too wide, `H.SOF` apart (R31). -/
theorem hwriteRefused_iff {r : HReg} (hr : r ≠ .sof) (v : Nat) :
    hwriteRefused r v = true ↔ 2 ^ hregWidth r ≤ v := by
  cases r
  case sof => exact absurd rfl hr
  all_goals exact decide_eq_true_iff

theorem applyMove_hwrite_of_lt {r : HReg} {v : Nat} (hr : r ≠ .sof) (hv : v < 2 ^ hregWidth r) :
    applyMove (.hwrite r v) s = s.setHeader (writeHReg s.h r v) :=
  if_neg (by rw [hwriteRefused_iff hr]; exact Nat.not_le.2 hv)

theorem applyMove_hwrite_of_le {r : HReg} {v : Nat} (hr : r ≠ .sof) (hv : 2 ^ hregWidth r ≤ v) :
    applyMove (.hwrite r v) s = s.setReply .refused :=
  if_pos ((hwriteRefused_iff hr v).2 hv)

/-- A write to `H.SOF` is not refused and changes nothing (R11). -/
@[simp] theorem applyMove_hwrite_sof (v : Nat) : applyMove (.hwrite .sof v) s = s := rfl

/-! ### HREADBUF -/

/-- HREADBUF gives the bytes exactly when they are within the length (R31, R41). -/
theorem applyMove_hreadbuf (space : Space) (a n : Nat) :
    applyMove (.hreadbuf space a n) s = s.setReply
      (if a + n ≤ (s.content space).length then .bytes (slice (s.content space) a n) else .refused) := by
  simp only [applyMove, State.memRead]
  split_ifs <;> rfl

/-! ### Buffers after a replacement -/

theorem State.setSpace_readByte (space : Space) (b : List Byte) (a : Nat) :
    (s.setSpace space b).readByte space a = b[a]? := by
  cases space <;> exact readByte_cellsOf b a

theorem State.setSpace_readByte_of_ne {space other : Space} (ho : other ≠ space) (b : List Byte) (a : Nat) :
    (s.setSpace space b).readByte other a = s.readByte other a := by
  cases space <;> cases other
  case pbuf.fbuf | fbuf.pbuf => rfl
  all_goals exact absurd rfl ho

theorem State.commitEnc_readByte_fbuf (r : EncResult) (a : Nat) : (s.commitEnc r).readByte .fbuf a = r.frame[a]? :=
  readByte_cellsOf r.frame a

theorem State.commitDec_readByte_pbuf (r : DecResult) (a : Nat) : (s.commitDec r).readByte .pbuf a = r.payload[a]? :=
  readByte_cellsOf r.payload a

/-- `PLEN` is wide enough for the length of a payload within the capacity (R22). -/
theorem State.setPbuf_plen_toNat {b : List Byte} (hb : b.length ≤ pmax) : (s.setPbuf b).plen.toNat = b.length := by
  rw [State.plen, State.setPbuf_content_pbuf, BitVec.toNat_ofNat]
  exact Nat.mod_eq_of_lt (hb.trans_lt (by decide))

/-- `FLEN` is wide enough for the length of a frame within the capacity (R23). -/
theorem State.setFbuf_flen_toNat {b : List Byte} (hb : b.length ≤ fmax) : (s.setFbuf b).flen.toNat = b.length := by
  rw [State.flen, State.setFbuf_content_fbuf, BitVec.toNat_ofNat]
  exact Nat.mod_eq_of_lt (hb.trans_lt (by decide))

/-! ### HLOAD -/

theorem applyMove_hload_of_le {space : Space} {b : List Byte} (hb : b.length ≤ spaceMax space) :
    applyMove (.hload space b) s = s.setSpace space b := if_pos hb

theorem applyMove_hload_of_lt {space : Space} {b : List Byte} (hb : spaceMax space < b.length) :
    applyMove (.hload space b) s = s.setReply .refused := if_neg (Nat.not_le.2 hb)

end Sys2Proof.Machine
end

section
/-! The invariant of the block: one rule per update of the state, then the operations, the moves and reset, then the
step. -/

namespace Sys2Proof.Machine

/-! ### The updates -/

section Updates

variable {s : State} (hs : Inv s)
include hs

theorem Inv.setHeader (h : Header) : Inv (s.setHeader h) := { hs with }

theorem Inv.setStatus {w : Byte} (hw : StatusLegal w) : Inv (s.setStatus w) := { hs with status := hw }

theorem Inv.setSpace (space : Space) {b : List Byte} (hb : b.length ≤ spaceMax space) :
    Inv (s.setSpace space b) := by
  have hm := State.setSpace_wf hs.memory space b hb
  cases space <;> exact { hs with memory := hm }

theorem Inv.setConsumed {n : Nat} (hlo : hdrWire ≤ n) (hhi : n ≤ fmax) : Inv (s.setConsumed n) := by
  have hn : (BitVec.ofNat 17 n).toNat = n := Nat.mod_eq_of_lt (hhi.trans_lt (by decide))
  exact { hs with consumed := .inr (by rw [State.setConsumed_consumed, hn]; exact ⟨hlo, hhi⟩) }

theorem Inv.setLr (f : LoginFields) : Inv (s.setLr (loginRegs s.codes f)) := { hs with login := .inr rfl }

theorem Inv.setKeyPort (p : KeyPort) : Inv (s.setKeyPort p) := { hs with }

theorem Inv.setInputs (l : List Input) : Inv (s.setInputs l) := { hs with }

theorem Inv.setReply {r : Reply} (hr : ReplyNormal s.codes r) : Inv (s.setReply r) := { hs with reply := hr }

/-- Taking an error keeps the invariant (R182). -/
theorem Inv.raise (e : Err) : Inv (s.raise e) := hs.setStatus (statusLegal_error e)

/-- Taking the next input keeps the invariant. -/
theorem Inv.fetch {j : Input} {u : State} (hf : s.fetch = some (j, u)) : Inv u := by
  obtain ⟨rest, -, rfl⟩ := State.fetch_eq_some.1 hf
  exact (hs.setInputs rest).setReply trivial

end Updates

/-! ### What the operations commit -/

/-- A frame of a payload within `PMAX` is within `FMAX` (R22, R23, R60). -/
theorem hdrWire_add_regionLength_le {n : Nat} (hn : n ≤ pmax) (enc : Bool) : hdrWire + regionLength enc n ≤ fmax := by
  have halign : align16 n ≤ 65536 := align16_le_65536 hn
  have hraw : n ≤ 65535 := hn
  cases enc with
  | false => show 16 + n ≤ 65552; omega
  | true => show 16 + align16 n ≤ 65552; omega

/-- ENC writes a frame within the capacity of `FBUF`. -/
theorem Inv.commitEnc {s : State} (hs : Inv s) {r : EncResult}
    (hr : encResult Config.cipher s.keyPort s.h (s.content .pbuf) s.plen = .ok r) : Inv (s.commitEnc r) := by
  obtain ⟨body, hbody, rfl⟩ := encResult_eq_ok.1 hr
  have hlen : (hdrEncode { s.h with length := s.plen } ++ body).length ≤ spaceMax .fbuf := by
    rw [List.length_append, length_hdrEncode, length_of_encodeRegion hbody]
    exact hdrWire_add_regionLength_le (State.content_length_le hs.memory .pbuf) _
  exact ((hs.setHeader _).setSpace .fbuf hlen).setStatus (statusLegal_header _ _)

/-- DEC writes a payload of the declared length, a 16-bit number, and consumes the frame it stands in. -/
theorem Inv.commitDec {s : State} (hs : Inv s) {r : DecResult}
    (hr : decResult Config.cipher s.keyPort (s.content .fbuf) = .ok r) : Inv (s.commitDec r) := by
  obtain ⟨h, p, -, hp, rfl⟩ := decResult_eq_ok.1 hr
  have hdeclared : h.length.toNat ≤ pmax := Nat.le_of_lt_succ h.length.isLt
  have hlen : p.length ≤ spaceMax .pbuf := (length_of_decodeRegion hp).1.trans_le hdeclared
  exact (((hs.setHeader h).setSpace .pbuf hlen).setConsumed (Nat.le_add_right _ _)
    (hdrWire_add_regionLength_le hdeclared _)).setStatus (statusLegal_header _ _)

/-- LGN writes the record of the fields with their class (R161). -/
theorem Inv.commitLgn {s : State} (hs : Inv s) (f : LoginFields) : Inv (s.commitLgn f) :=
  (hs.setLr f).setStatus (statusLegal_login _)

theorem Inv.loadShape {s : State} (hs : Inv s) (d : Header) : Inv (s.loadShape d) :=
  (hs.setHeader d).setStatus statusLegal_clear

/-- What a started operation can end in: a shape loaded, the results of ENC, DEC or LGN committed, or an error taken. -/
theorem exec_operation_cases {op : Byte} {i : Instr} {s t : State} (hop : decodeOp op = .ok i)
    (h : exec i s = .next t) :
    (∃ d, t = s.loadShape d) ∨
    (∃ r, encResult Config.cipher s.keyPort s.h (s.content .pbuf) s.plen = .ok r ∧ t = s.commitEnc r) ∨
    (∃ r, decResult Config.cipher s.keyPort (s.content .fbuf) = .ok r ∧ t = s.commitDec r) ∨
    (∃ f, loginParse (s.content .pbuf) = .ok f ∧ t = s.commitLgn f) ∨ ∃ e, t = s.raise e := by
  rcases decodeOp_eq_ok.1 hop with ⟨-, rfl⟩ | ⟨-, rfl⟩ | ⟨-, rfl⟩ | ⟨-, rfl⟩ | ⟨-, rfl⟩
  · exact .inl ⟨_, (Host.Outcome.next.inj h).symm⟩
  · exact .inl ⟨_, (Host.Outcome.next.inj h).symm⟩
  · rcases exec_enc_cases h with hok | ⟨-, -, ht⟩
    · exact .inr (.inl hok)
    · exact .inr (.inr (.inr (.inr ⟨_, ht⟩)))
  · rcases exec_dec_cases h with hok | ⟨e, -, ht⟩
    · exact .inr (.inr (.inl hok))
    · exact .inr (.inr (.inr (.inr ⟨e, ht⟩)))
  · rcases exec_lgn_cases h with hok | ⟨-, ht⟩
    · exact .inr (.inr (.inr (.inl hok)))
    · exact .inr (.inr (.inr (.inr ⟨_, ht⟩)))

/-- Every operation that an op code starts keeps the invariant. -/
theorem Inv.exec_operation {op : Byte} {i : Instr} {s t : State} (hs : Inv s) (hop : decodeOp op = .ok i)
    (h : exec i s = .next t) : Inv t := by
  rcases exec_operation_cases hop h with ⟨d, rfl⟩ | ⟨r, hr, rfl⟩ | ⟨r, hr, rfl⟩ | ⟨f, -, rfl⟩ | ⟨e, rfl⟩
  · exact hs.loadShape d
  · exact hs.commitEnc hr
  · exact hs.commitDec hr
  · exact hs.commitLgn f
  · exact hs.raise e

/-! ### Moves and reset -/

/-- Every host move keeps the invariant: what it gives back is no enumeration value, and HLOAD respects the capacity. -/
theorem Inv.applyMove {s : State} (hs : Inv s) (m : HostMove) : Inv (applyMove m s) := by
  rcases applyMove_cases m s with ⟨r, hr, ht⟩ | ⟨h, ht⟩ | ⟨space, b, hb, ht⟩ <;> rw [ht]
  · rcases hr with rfl | ⟨v, rfl⟩ | ⟨b, rfl⟩ <;> exact hs.setReply trivial
  · exact hs.setHeader h
  · exact hs.setSpace space hb

/-- The reset values of R32 meet the invariant under all code tables that are bijections. -/
theorem inv_resetWith {c : Codes} (hc : c.wf = true) : Inv (State.resetWith c) where
  memory := rfl
  status := statusLegal_clear
  consumed := .inl rfl
  login := .inl rfl
  codes := hc
  reply := trivial

theorem Inv.applyReset {s : State} (hs : Inv s) : Inv (applyReset s) :=
  ((inv_resetWith hs.codes).setKeyPort _).setInputs _

/-! ### The step -/

/-- Settles O6: a step takes an input and then does one of the things the rules above speak of. -/
theorem stepKeepsInvariant : Obligations.StepKeepsInvariant := by
  intro s t hs h
  rcases step_cases h with ⟨-, rfl⟩ | ⟨j, u, hf, hcase⟩
  · exact hs
  · have hu : Inv u := hs.fetch hf
    rcases hcase with ⟨op, i, -, hop, hi⟩ | ⟨op, e, -, -, rfl⟩ | ⟨m, -, rfl⟩ | ⟨k, -, rfl⟩ | ⟨-, rfl⟩ | ⟨-, rfl⟩
    · exact hu.exec_operation hop hi
    · exact hu.raise .illegalOp
    · exact hu.applyMove m
    · exact hu.setKeyPort _
    · exact hu.setKeyPort _
    · exact hu.applyReset

/-- Settles O7: the reset state with any bijective tables, of which the spec's defaults are one case. -/
theorem resetMeetsInvariant : Obligations.ResetMeetsInvariant :=
  ⟨inv_resetWith (by decide), fun _ => inv_resetWith⟩

/-! ### The configuration -/

theorem codes_of_exec_operation {op : Byte} {i : Instr} {s t : State} (hop : decodeOp op = .ok i)
    (h : exec i s = .next t) : t.codes = s.codes := by
  rcases exec_operation_cases hop h with ⟨d, rfl⟩ | ⟨r, -, rfl⟩ | ⟨r, -, rfl⟩ | ⟨f, -, rfl⟩ | ⟨e, rfl⟩ <;> rfl

@[simp] theorem State.setSpace_codes (s : State) (space : Space) (b : List Byte) :
    (s.setSpace space b).codes = s.codes := by
  cases space <;> rfl

@[simp] theorem applyMove_codes (m : HostMove) (s : State) : (applyMove m s).codes = s.codes := by
  rcases applyMove_cases m s with ⟨r, -, ht⟩ | ⟨h, ht⟩ | ⟨space, b, -, ht⟩
  · rw [ht, State.setReply_codes]
  · rw [ht, State.setHeader_codes]
  · rw [ht, State.setSpace_codes]

/-- Settles O55: no operation and no move writes the code tables, and reset keeps them (R33). -/
theorem configurationIsFixed : Obligations.ConfigurationIsFixed := by
  intro s t h
  rcases step_cases h with ⟨-, rfl⟩ | ⟨j, u, hf, hcase⟩
  · rfl
  · have hu : u.codes = s.codes := by
      obtain ⟨rest, -, rfl⟩ := State.fetch_eq_some.1 hf
      rfl
    rw [← hu]
    rcases hcase with ⟨op, i, -, hop, hi⟩ | ⟨op, e, -, -, rfl⟩ | ⟨m, -, rfl⟩ | ⟨k, -, rfl⟩ | ⟨-, rfl⟩ | ⟨-, rfl⟩
    · exact codes_of_exec_operation hop hi
    · rfl
    · exact applyMove_codes m u
    · rfl
    · rfl
    · rfl

end Sys2Proof.Machine
end

section
/-! The statements about registers, buffers and host moves (`10_state.md`). -/

namespace Sys2Proof.Machine

/-- Settles O36: `PBUF` is replaced by a payload of exactly the declared length. -/
theorem decExposesOnlyThePayload : Obligations.DecExposesOnlyThePayload := by
  intro s t h he a
  obtain ⟨hd, p, -, hp, rfl⟩ := exec_dec_ok h he
  have hlen : p.length = hd.length.toNat := (length_of_decodeRegion hp).1
  rw [State.commitDec_readByte_pbuf, State.commitDec_h, isSome_getElem?, hlen]

/-- Settles O41: `H.SOF` is no field of the state, ENC's header begins with the constant, and a header without it does
not decode. -/
theorem sofIsHardwired : Obligations.SofIsHardwired := by
  refine ⟨fun s v => ⟨rfl, applyMove_hwrite_sof s v⟩, fun s t h he => ?_, fun s t h he => ?_⟩
  · obtain ⟨b, -, rfl⟩ := exec_enc_ok h he
    rw [State.commitEnc_readByte_fbuf, hdrEncode_eq]
    rfl
  · obtain ⟨hd, p, hh, -, -⟩ := exec_dec_ok h he
    obtain ⟨-, h0, -, -⟩ := hdrDecode_bytes hh
    exact h0

/-- Settles O42: the value fits or is refused by the register's width; a write to `H.SOF` is ignored. -/
theorem hostWriteRule : Obligations.HostWriteRule := by
  refine ⟨fun s rest r v hr hs => ⟨_, step_of_move hs, ?_⟩, fun s rest v hs => ?_⟩
  · rw [← two_pow_hregWidth]
    by_cases hv : v < 2 ^ hregWidth r
    · rw [applyMove_hwrite_of_lt _ hr hv, if_pos hv]
      exact ⟨rfl, rfl, rfl, rfl, rfl, fun q hq => State.readReg_setHeader_writeHReg_of_ne s hq v,
        readHReg_writeHReg_same s.h hr v, rfl⟩
    · rw [applyMove_hwrite_of_le _ hr (Nat.not_lt.1 hv), if_neg hv]
      exact ⟨rfl, rfl, rfl, rfl, rfl, fun _ _ => rfl, rfl, rfl⟩
  · rw [step_of_move hs, applyMove_hwrite_sof]
    rfl

/-- Settles O43: within the capacity the buffer is replaced whole, beyond it the load is refused. -/
theorem hostLoadRule : Obligations.HostLoadRule := by
  intro s rest space b hs
  refine ⟨_, step_of_move hs, ?_⟩
  by_cases hb : b.length ≤ spaceMax space
  · rw [applyMove_hload_of_le _ hb]
    have hother : ∀ other, other ≠ space → SameBuffer other s (((s.setInputs rest).setReply .none).setSpace space b) :=
      fun other ho a => State.setSpace_readByte_of_ne _ ho b a
    cases space with
    | pbuf =>
      exact ⟨rfl, rfl, rfl, rfl, rfl, rfl, rfl, rfl, hother, (if_pos hb).mpr
        ⟨State.setPbuf_content_pbuf _ b, State.setSpace_readByte _ .pbuf b, State.setPbuf_plen_toNat _ hb, rfl⟩⟩
    | fbuf =>
      exact ⟨rfl, rfl, rfl, rfl, rfl, rfl, rfl, rfl, hother, (if_pos hb).mpr
        ⟨State.setFbuf_content_fbuf _ b, State.setSpace_readByte _ .fbuf b, State.setFbuf_flen_toNat _ hb, rfl⟩⟩
  · rw [applyMove_hload_of_lt _ (Nat.not_le.1 hb)]
    refine ⟨rfl, rfl, rfl, rfl, rfl, rfl, rfl, rfl, fun _ _ _ => rfl, ?_⟩
    cases space <;> exact (if_neg hb).mpr ⟨fun _ => rfl, rfl⟩

/-- Settles O1: the rule of the step for an assigned op code. -/
theorem stepRunsDecodedOperation : Obligations.StepRunsDecodedOperation :=
  fun _ _ _ _ hs hop => step_of_start hs hop

/-- Settles O8: a closed fact about the one state `State.reset`, computed register by register. -/
theorem resetValues : Obligations.ResetValues := by
  unfold Obligations.ResetValues
  decide

/-- Settles O44: each register's case of the register file, and what `MemRead` answers within the length. -/
theorem hostReadRule : Obligations.HostReadRule := by
  refine fun s rest => ⟨fun r hs => ?_, fun space a n hs => ?_⟩
  · rw [step_of_move hs]
    cases r with
    | h r => cases r <;> rfl
    | _ => rfl
  · rw [step_of_move hs, applyMove_hreadbuf]
    rfl

/-- `STATUS` as a number: each field at its bit position (R21). -/
theorem statusWord_toNat (e : BitVec 3) (mt cmd ls : Bool) :
    (statusWord e mt cmd ls).toNat = e.toNat + 16 * mt.toNat + 32 * cmd.toNat + 64 * ls.toNat := by
  revert e mt cmd ls
  decide

/-- Settles O48: the sum of the fields at their places, and the four codes. -/
theorem statusLayout : Obligations.StatusLayout := ⟨statusWord_toNat, rfl, rfl, rfl, rfl⟩

end Sys2Proof.Machine
end

section
/-! Decoding and encoding (`30_encoding.md`): what each place's decoder answers, and that it takes a row's encoding back
to the row. -/

namespace Sys2Proof

/-! ### The rows of the enumerations -/

@[simp] theorem MessageType.encode_row (c : Codes) (n : MessageType) : encode c n.row = [Machine.mtCode c n] := by
  cases n <;> rfl

@[simp] theorem CommandName.encode_row (c : Codes) (n : CommandName) : encode c n.row = [Machine.cmdCode c n] := by
  cases n <;> rfl

@[simp] theorem LoginStatus.encode_row (c : Codes) (n : LoginStatus) : encode c n.row = [Machine.lsCode c n] := by
  cases n <;> rfl

@[simp] theorem MessageType.place_row (n : MessageType) : n.row.place = .messageType := by cases n <;> rfl

@[simp] theorem CommandName.place_row (n : CommandName) : n.row.place = .command := by cases n <;> rfl

@[simp] theorem LoginStatus.place_row (n : LoginStatus) : n.row.place = .loginStatus := by cases n <;> rfl

/-- Only a payload region can be ill-formed, and its place is no one-byte place. -/
theorem Instr.wellFormed_of_place {i : Instr} (h : i.place ∈ [Place.opPort, .messageType, .command, .loginStatus]) :
    i.wellFormed = true := by
  cases i with
  | framePayloadRaw p => simp [Instr.place] at h
  | framePayloadCiph n b => simp [Instr.place] at h
  | _ => rfl

end Sys2Proof

namespace Sys2Proof.Machine

/-! ### One-byte places -/

theorem oneByte_eq_ok {f : Byte → Except DecodeError Instr} {b : List Byte} {i : Instr} :
    oneByte f b = .ok i ↔ ∃ x, b = [x] ∧ f x = .ok i := by
  match b with
  | [] => simp [oneByte]
  | [x] => simp [oneByte]
  | x :: y :: rest => simp [oneByte]

theorem rowOfCoded_eq_ok {α : Type} {row : α → Instr} {v : Coded α} {i : Instr} :
    rowOfCoded row v = .ok i ↔ ∃ n, v = .known n ∧ row n = i := by
  cases v <;> simp [rowOfCoded]

section CodeTable

variable {α : Type} {names : List α} {code : α → Byte} {row : α → Instr}

/-- Where an enumeration's byte stands, bytes that decode to a row are the code of the row's name. -/
theorem code_of_oneByte_row {b : List Byte} {i : Instr}
    (h : oneByte (fun x => rowOfCoded row (codedBy names code x)) b = .ok i) : ∃ n, b = [code n] ∧ i = row n := by
  obtain ⟨x, rfl, hx⟩ := oneByte_eq_ok.1 h
  obtain ⟨n, hn, rfl⟩ := rowOfCoded_eq_ok.1 hx
  rw [← (code_of_codedBy_known hn).2]
  exact ⟨n, rfl, rfl⟩

/-- With no two names sharing a code, a name's code decodes to the name's row (R90). -/
theorem oneByte_row_code (hd : (names.map code).Nodup) {n : α} (hn : n ∈ names) :
    oneByte (fun x => rowOfCoded row (codedBy names code x)) [code n] = .ok (row n) :=
  oneByte_eq_ok.2 ⟨_, rfl, rowOfCoded_eq_ok.2 ⟨n, codedBy_code hd hn, rfl⟩⟩

end CodeTable

/-- The op codes that R75 does not assign (R76). -/
theorem decodeOp_eq_error {op : Byte} {e : DecodeError} :
    decodeOp op = .error e ↔ op ∉ [0x01#8, 0x02#8, 0x10#8, 0x11#8, 0x20#8] ∧ e = .unassignedOp op := by
  simp only [decodeOp, oneByte, decodeOpByte]
  split_ifs <;> simp_all [eq_comm (a := e)]

/-! ### The header, the payload region and the login payload -/

/-- A header's encoding decodes to the header, the fields by position (R61, R120, R123). -/
theorem hdrDecode_hdrEncode (h : Header) : hdrDecode (hdrEncode h) = .ok h := by
  refine hdrDecode_eq_ok.2 ⟨(length_hdrEncode h).ge, rfl, ?_⟩
  simp [hdrEncode_eq]

/-- A login payload's bytes parse to its fields, whatever follows them (R160, R161). -/
theorem loginParse_loginBytes (f : LoginFields) (rest : List Byte) : loginParse (loginBytes f ++ rest) = .ok f := by
  obtain ⟨st, ⟨⟨key⟩, hkey⟩, hw, mj, mn, ⟨⟨serial⟩, hserial⟩⟩ := f
  have hk : key.length = 16 := hkey
  have hs : serial.length = 4 := hserial
  refine loginParse_eq_ok.2 ⟨?_, ?_⟩
  · simp [loginBytes, hk, hs]; omega
  · simp [loginBytes, be16, slice, hk, hs, List.take_append, List.drop_append]

/-- `H.LENGTH` is wide enough to declare the length of a payload within `PMAX` (R22, R67). -/
theorem regionLength_false_ofNat {n : Nat} (hn : n ≤ pmax) : regionLength false (BitVec.ofNat 16 n).toNat = n :=
  Nat.mod_eq_of_lt (hn.trans_lt (by decide))

/-- Bytes of exactly a region's length are the region (R67, R68). -/
theorem decodeAt_payloadRegion (c : Codes) (enc : Bool) (n : Half) {b : List Byte}
    (hb : b.length = regionLength enc n.toNat) :
    decodeAt c (.payloadRegion enc n) b = .ok (if enc then .framePayloadCiph n b else .framePayloadRaw b) := by
  cases enc <;> simp [decodeAt, ← hb]

/-! ### Decode and encode -/

/-- Settles O4: by the rows, each with the rule of its place; an enumeration row decodes by its table being a
bijection. -/
theorem decodeEncodeAgree : Obligations.DecodeEncodeAgree := by
  intro c i hc hwf
  obtain ⟨hmt, hcmd, hls⟩ := (codes_wf_iff c).1 hc
  have mt (n : MessageType) : decodeAt c .messageType [mtCode c n] = .ok n.row :=
    oneByte_row_code hmt (mem_messageTypes n)
  have cmd (n : CommandName) : decodeAt c .command [cmdCode c n] = .ok n.row :=
    oneByte_row_code hcmd (mem_commandNames n)
  have ls (n : LoginStatus) : decodeAt c .loginStatus [lsCode c n] = .ok n.row :=
    oneByte_row_code hls (mem_loginStatuses n)
  cases i with
  | initq | initr | enc | dec | lgn => rfl
  | frameHdr16 h => simp [Instr.place, encode, decodeAt, hdrDecode_hdrEncode]
  | framePayloadRaw p =>
    have hp : p.length ≤ pmax := of_decide_eq_true hwf
    exact decodeAt_payloadRegion c false _ (regionLength_false_ofNat hp).symm
  | framePayloadCiph n b => exact decodeAt_payloadRegion c true n (of_decide_eq_true hwf)
  | messageTypeIpResponse => exact mt .ipResponse
  | messageTypeSerialPassthroughResponse => exact mt .serialPassthroughResponse
  | messageTypeIpRequest => exact mt .ipRequest
  | messageTypeSerialPassthroughRequest => exact mt .serialPassthroughRequest
  | commandIpAuthentication => exact cmd .ipAuthentication
  | commandF2 => exact cmd .f2
  | commandF3 => exact cmd .f3
  | commandF4 => exact cmd .f4
  | commandF5 => exact cmd .f5
  | commandF8 => exact cmd .f8
  | commandFB => exact cmd .fb
  | commandPanelCommunication => exact cmd .panelCommunication
  | loginStatusSuccess => exact ls .success
  | loginStatusInvalidPassword => exact ls .invalidPassword
  | loginStatusUserAlreadyConnected => exact ls .userAlreadyConnected
  | loginStatusUserAlreadyConnected1 => exact ls .userAlreadyConnected1
  | login25 f =>
    have hf : loginParse (loginBytes f) = .ok f := by simpa using loginParse_loginBytes f []
    simp [Instr.place, encode, decodeAt, hf]

/-- Bytes that decode at a one-byte place are the row's encoding, and the row stands there (R75, R90). -/
theorem encode_of_decodeAt {c : Codes} {place : Place} {b : List Byte} {i : Instr}
    (hplace : place ∈ [Place.opPort, .messageType, .command, .loginStatus]) (h : decodeAt c place b = .ok i) :
    encode c i = b ∧ i.place = place := by
  simp only [List.mem_cons, List.not_mem_nil, or_false] at hplace
  rcases hplace with rfl | rfl | rfl | rfl
  · obtain ⟨x, rfl, hx⟩ := oneByte_eq_ok.1 h
    rcases decodeOp_eq_ok.1 hx with ⟨rfl, rfl⟩ | ⟨rfl, rfl⟩ | ⟨rfl, rfl⟩ | ⟨rfl, rfl⟩ | ⟨rfl, rfl⟩ <;> exact ⟨rfl, rfl⟩
  · obtain ⟨n, rfl, rfl⟩ := code_of_oneByte_row h
    exact ⟨n.encode_row c, n.place_row⟩
  · obtain ⟨n, rfl, rfl⟩ := code_of_oneByte_row h
    exact ⟨n.encode_row c, n.place_row⟩
  · obtain ⟨n, rfl, rfl⟩ := code_of_oneByte_row h
    exact ⟨n.encode_row c, n.place_row⟩

/-- Settles O5: the decoder's inversion at each place; two rows with one code are what that code decodes to (O4). -/
theorem oneByteCodesEncodeBack : Obligations.OneByteCodesEncodeBack := by
  refine ⟨fun c place b i hplace h => ?_, fun c i j hc hi hij henc => ?_⟩
  · obtain ⟨henc, rfl⟩ := encode_of_decodeAt hplace h
    exact ⟨henc, rfl, Instr.wellFormed_of_place hplace⟩
  · have hdi : decodeAt c i.place (encode c i) = .ok i := decodeEncodeAgree c i hc (Instr.wellFormed_of_place hi)
    have hdj : decodeAt c j.place (encode c j) = .ok j :=
      decodeEncodeAgree c j hc (Instr.wellFormed_of_place (hij ▸ hi))
    rw [hij, henc, hdj] at hdi
    exact (Except.ok.inj hdi).symm

/-- Settles O3: the op codes by R75's table, the header by position, the enumeration bytes by the default tables. -/
theorem sampleWordsDecode : Obligations.SampleWordsDecode :=
  ⟨rfl, rfl, rfl, rfl, rfl, rfl, rfl, rfl, rfl, rfl⟩

end Sys2Proof.Machine
end

section
/-! The payload-region rows, and the steps that take an unassigned op code or a change of the key port. -/

namespace Sys2Proof.Machine

/-! ### One step, by the input it takes -/

section Steps

variable {s : State} {rest : List Input}

/-- An op code that does not decode takes `IllegalOp` on the state with the input taken (R76). -/
theorem step_of_start_error {op : Byte} {e : DecodeError} (hs : s.inputs = .start op :: rest)
    (hop : decodeOp op = .error e) : step s = .next ((s.setInputs rest).setReply .none).illegalOp := by
  have hf := State.fetch_eq_some.2 ⟨rest, hs, rfl⟩
  simp only [step, hf, hop]

/-- `KEY k` (R77, R105). -/
theorem step_of_key {k : Key} (hs : s.inputs = .key k :: rest) :
    step s = .next (presentKey k ((s.setInputs rest).setReply .none)) := by
  have hf := State.fetch_eq_some.2 ⟨rest, hs, rfl⟩
  simp only [step, hf]

/-- `NOKEY` (R77, R105). -/
theorem step_of_noKey (hs : s.inputs = .noKey :: rest) :
    step s = .next (presentNoKey ((s.setInputs rest).setReply .none)) := by
  have hf := State.fetch_eq_some.2 ⟨rest, hs, rfl⟩
  simp only [step, hf]

end Steps

/-- Settles O2: a code outside R75's table does not decode, and taking the error writes `STATUS` alone. -/
theorem unassignedOpTakesIllegalOp : Obligations.UnassignedOpTakesIllegalOp := by
  intro s op rest hs hop
  exact step_of_start_error hs (decodeOp_eq_error.2 ⟨hop, rfl⟩)

/-- Settles O45: the key port takes what the provider drives; NOKEY keeps what stands on `KEY`. -/
theorem keyProviderInputs : Obligations.KeyProviderInputs :=
  fun _ _ => ⟨fun _ hs => step_of_key hs, fun hs => step_of_noKey hs⟩

/-! ### The payload-region rows -/

theorem exec_framePayloadRaw (p : List Byte) (s : State) :
    exec (.framePayloadRaw p) s = s.answerRegion (decodeRaw p.length p) := rfl

theorem exec_framePayloadCiph (n : Half) (block : List Byte) (s : State) :
    exec (.framePayloadCiph n block) s = s.answerRegion (decodeCiph Config.cipher s.keyPort n.toNat block) := rfl

@[simp] theorem State.answerRegion_ok (s : State) (p : List Byte) :
    s.answerRegion (.ok p) = .next (s.setReply (.bytes p)) := rfl

@[simp] theorem State.answerRegion_error (s : State) (e : Err) : s.answerRegion (.error e) = .next (s.raise e) := rfl

/-- Settles O51: the region is exactly as long as its payload, so it is never too short. -/
theorem rawRegionRowAnswers : Obligations.RawRegionRowAnswers := by
  intro s p
  have hraw : decodeRaw p.length p = .ok p := decodeRaw_eq_ok.2 ⟨le_rfl, List.take_length.symm⟩
  rw [exec_framePayloadRaw, hraw, State.answerRegion_ok]
  rfl

/-- Settles O52: no key, a block too short, or a whole block decrypted and truncated (R110, R177, R140). -/
theorem ciphRegionRowAnswers : Obligations.CiphRegionRowAnswers := by
  intro s n block
  rw [exec_framePayloadCiph]
  split_ifs with hkey hlen
  · rw [decodeCiph_eq_error.2 (.inl ⟨hkey, rfl⟩), State.answerRegion_error]
    rfl
  · have hvalid : s.keyPort.valid = true := Bool.eq_true_of_not_eq_false hkey
    rw [decodeCiph_eq_error.2 (.inr ⟨hvalid, hlen, rfl⟩), State.answerRegion_error]
    rfl
  · have hvalid : s.keyPort.valid = true := Bool.eq_true_of_not_eq_false hkey
    have hle : align16 n.toNat ≤ block.length := Nat.not_lt.1 hlen
    have hblocks : (block.take (align16 n.toNat)).length % 16 = 0 := by
      rw [List.length_take_of_le hle, align16_mod]
    refine ⟨hblocks, ?_⟩
    rw [decodeCiph_eq_ok.2 ⟨hvalid, hle, hblocks, rfl⟩, State.answerRegion_ok]
    rfl

end Sys2Proof.Machine
end

section
/-! The enumerations (`40_enumerations.md`): the three tables' decode, encode and normal form, the class of a login
status, and what the codes and the code tables reach. -/

namespace Sys2Proof

/-- The class R98 gives a name of `login_status`. -/
def LoginStatus.cls : LoginStatus → BitVec 2
  | .success => 0
  | .invalidPassword => 1
  | .userAlreadyConnected => 2
  | .userAlreadyConnected1 => 2

end Sys2Proof

namespace Sys2Proof.Machine

/-! ### Normal form -/

section CodeTable

variable {α : Type} {names : List α} {code : α → Byte}

/-- A value and its normal form have the same wire byte (R92). -/
theorem encodeBy_normalBy (v : Coded α) : encodeBy names code (normalBy names code v) = encodeBy names code v := by
  cases v with
  | known n => rfl
  | unknown b =>
    calc encodeBy names code (codedBy names code b) = b := encodeBy_codedBy b
      _ = encodeBy names code (.unknown b) := (encodeBy_unknown b).symm

/-- A normal form is `Unknown` only of a byte that is no name's code (R92). -/
theorem not_mem_of_normalBy_eq_unknown {v : Coded α} {b : Byte} (h : normalBy names code v = .unknown b) :
    b ∉ names.map code := by
  cases v with
  | known n => cases h
  | unknown d =>
    obtain ⟨rfl, hb⟩ := codedBy_eq_unknown.1 h
    exact hb

end CodeTable

/-- Settles O57: the laws of `normalBy`, which hold of any code table, at each of the three. -/
theorem unknownIsNeverACode : Obligations.UnknownIsNeverACode := fun _ =>
  ⟨fun b => ⟨normalBy_codedBy b, rfl, encodeBy_unknown b⟩,
    fun b => ⟨normalBy_codedBy b, rfl, encodeBy_unknown b⟩,
    fun b => ⟨normalBy_codedBy b, rfl, encodeBy_unknown b⟩,
    fun v => ⟨encodeBy_normalBy v, fun _ => not_mem_of_normalBy_eq_unknown⟩,
    fun v => ⟨encodeBy_normalBy v, fun _ => not_mem_of_normalBy_eq_unknown⟩,
    fun v => ⟨encodeBy_normalBy v, fun _ => not_mem_of_normalBy_eq_unknown⟩⟩

/-! ### Tables that are bijections -/

section Bijection

variable {c : Codes} (hc : c.wf = true)
include hc

theorem mtDecode_mtCode (n : MessageType) : mtDecode c (mtCode c n) = .known n :=
  codedBy_code ((codes_wf_iff c).1 hc).1 (mem_messageTypes n)

theorem cmdDecode_cmdCode (n : CommandName) : cmdDecode c (cmdCode c n) = .known n :=
  codedBy_code ((codes_wf_iff c).1 hc).2.1 (mem_commandNames n)

theorem lsDecode_lsCode (n : LoginStatus) : lsDecode c (lsCode c n) = .known n :=
  codedBy_code ((codes_wf_iff c).1 hc).2.2 (mem_loginStatuses n)

theorem lsCode_inj {m n : LoginStatus} : lsCode c m = lsCode c n ↔ m = n := by
  refine ⟨fun h => ?_, congrArg _⟩
  have hmn : Coded.known m = .known n := by rw [← lsDecode_lsCode hc m, h, lsDecode_lsCode hc n]
  exact Coded.known.inj hmn

/-- Each name's code has the name's class: no code of another class is taken for it (R98). -/
theorem lsClass_lsCode (n : LoginStatus) : lsClass c (lsCode c n) = n.cls := by
  simp only [lsClass, lsCode_inj hc]
  cases n <;> rfl

end Bijection

/-- Settles O22: a bijective table decodes a name's code to the name; any table's byte is encoded back (R92). -/
theorem enumerationSymmetry : Obligations.EnumerationSymmetry :=
  ⟨fun _ hc => ⟨mtDecode_mtCode hc, cmdDecode_cmdCode hc, lsDecode_lsCode hc⟩,
    fun _ b => ⟨encodeBy_codedBy b, encodeBy_codedBy b, encodeBy_codedBy b⟩⟩

/-- Settles O54: the tables by their rows; that they are bijections is part of the invariant at reset (O7). -/
theorem defaultCodeTables : Obligations.DefaultCodeTables :=
  ⟨rfl, rfl, rfl, resetMeetsInvariant.1.codes, fun _ => ⟨rfl, rfl, rfl, rfl⟩⟩

/-! ### The rows of the enumerations (log 7) -/

section Rows

variable (s : State)

theorem exec_messageType_row (n : MessageType) : exec n.row s = s.answerMessageType n := by cases n <;> rfl

theorem exec_command_row (n : CommandName) : exec n.row s = s.answerCommand n := by cases n <;> rfl

theorem exec_loginStatus_row (n : LoginStatus) : exec n.row s = s.answerLoginStatus n := by cases n <;> rfl

end Rows

/-- Settles O49: a row answers the decoding of its name's code, which with bijective tables is the name. -/
theorem enumerationRowsAnswer : Obligations.EnumerationRowsAnswer := by
  intro s hc
  have mt (n : MessageType) : exec n.row s = .next (s.setReply (.messageType (.known n))) := by
    rw [exec_messageType_row, State.answerMessageType, mtDecode_mtCode hc, State.answer]
  have cmd (n : CommandName) : exec n.row s = .next (s.setReply (.command (.known n))) := by
    rw [exec_command_row, State.answerCommand, cmdDecode_cmdCode hc, State.answer]
  have ls (n : LoginStatus) : exec n.row s = .next (s.setReply (.loginStatus (.known n) n.cls)) := by
    rw [exec_loginStatus_row, State.answerLoginStatus, lsDecode_lsCode hc, lsClass_lsCode hc, State.answer]
  exact ⟨mt .ipResponse, mt .serialPassthroughResponse, mt .ipRequest, mt .serialPassthroughRequest,
    cmd .ipAuthentication, cmd .f2, cmd .f3, cmd .f4, cmd .f5, cmd .f8, cmd .fb, cmd .panelCommunication,
    ls .success, ls .invalidPassword, ls .userAlreadyConnected, ls .userAlreadyConnected1⟩

/-! ### The login status byte -/

/-- The bytes `0x02` and `0x04` are the codes of the two names of class 2 (R97, R98). -/
theorem lsClass_alreadyConnected {c : Codes} (hc : c.wf = true) {st : Byte} (hst : st ∈ [0x02#8, 0x04#8]) :
    lsClass c st = 2 := by
  simp only [List.mem_cons, List.not_mem_nil, or_false] at hst
  rcases hst with rfl | rfl
  · exact lsClass_lsCode hc .userAlreadyConnected
  · exact lsClass_lsCode hc .userAlreadyConnected1

/-- LGN of a payload long enough commits fields whose status is the payload's first byte (R160, R161). -/
theorem exec_lgn_of_cons {s : State} {st : Byte} {p : List Byte} (hp : s.content .pbuf = st :: p)
    (hlen : 24 ≤ p.length) : ∃ f, exec .lgn s = .next (s.commitLgn f) ∧ f.status = st := by
  have hlong : 25 ≤ (s.content .pbuf).length := by
    rw [hp, List.length_cons]
    omega
  rcases exec_lgn_cases (s := s) rfl with ⟨f, hf, ht⟩ | ⟨hshort, -⟩
  · obtain ⟨_, hst, -⟩ := loginParse_eq_ok.1 hf
    exact ⟨f, congrArg _ ht, by simpa [hp] using hst⟩
  · omega

/-- Settles O21: both codes have class 2, and class 2 sets no flag. -/
theorem alreadyConnectedIsNoError : Obligations.AlreadyConnectedIsNoError := by
  intro s st p hc hp hlen hst
  obtain ⟨f, hexec, hf⟩ := exec_lgn_of_cons hp hlen
  have hcls : (loginRegs s.codes f).cls = 2 := by
    rw [loginRegs, hf]
    exact lsClass_alreadyConnected hc hst
  refine ⟨_, hexec, hcls, hf, ?_⟩
  rw [State.commitLgn_status, hcls]
  rfl

/-! ### What the codes in the header reach -/

/-- `message_type` and `command` are bytes 3 and 5 of the wire header, and no others (R61). -/
theorem hdrEncode_msgType_command (h : Header) (mt cmd : Byte) :
    hdrEncode { h with msgType := mt, command := cmd } = ((hdrEncode h).set 3 mt).set 5 cmd := rfl

/-- Settles O23: the payload region depends on the encrypt bit alone, so ENC commits the same region, after a header
with two other bytes. -/
theorem enumerationsTouchNothingElse : Obligations.EnumerationsTouchNothingElse := by
  intro s t mt cmd h he
  obtain ⟨b, hb, rfl⟩ := exec_enc_ok h he
  refine ⟨_, exec_enc_of_region (s := s.setHeader { s.h with msgType := mt, command := cmd }) hb,
    statusErr_statusWord _ _ _ _, ?_, rfl, rfl, rfl, rfl⟩
  have hbytes := hdrEncode_msgType_command { s.h with length := s.plen } mt cmd
  rw [State.commitEnc_content_fbuf, State.commitEnc_content_fbuf,
    List.set_append_left 3 mt (by simp [hdrWire]), List.set_append_left 5 cmd (by simp [hdrWire]), ← hbytes]
  rfl

/-! ### What the code tables reach -/

/-- `u` is `t` configured with the tables `c`, but for the flags in `STATUS` and for `LR.CLASS`. -/
structure EqUpToFlags (c : Codes) (t u : State) : Prop where
  error : statusErr u.status = statusErr t.status
  state : u = { t with codes := c, status := u.status, lr := { t.lr with cls := u.lr.cls } }

section Tables

variable {c : Codes} (s : State)

theorem EqUpToFlags.header {t u : State} (h : EqUpToFlags c t u) : u.h = t.h := by rw [h.state]

theorem eqUpToFlags_raise (e : Err) : EqUpToFlags c (s.raise e) ((s.setCodes c).raise e) := ⟨rfl, rfl⟩

theorem eqUpToFlags_loadShape (d : Header) : EqUpToFlags c (s.loadShape d) ((s.setCodes c).loadShape d) := ⟨rfl, rfl⟩

theorem eqUpToFlags_commitEnc (r : EncResult) : EqUpToFlags c (s.commitEnc r) ((s.setCodes c).commitEnc r) :=
  ⟨by simp [statusOfHeader], rfl⟩

theorem eqUpToFlags_commitDec (r : DecResult) : EqUpToFlags c (s.commitDec r) ((s.setCodes c).commitDec r) :=
  ⟨by simp [statusOfHeader], rfl⟩

theorem eqUpToFlags_commitLgn (f : LoginFields) : EqUpToFlags c (s.commitLgn f) ((s.setCodes c).commitLgn f) :=
  ⟨by simp [statusOfLogin], rfl⟩

/-- An operation whose computation does not see the tables ends alike under both, as its commit does. -/
theorem eqUpToFlags_finish {α : Type} (r : Except Err α) {f g : α → State} (hfg : ∀ a, EqUpToFlags c (f a) (g a)) :
    EqUpToFlags c (s.finish r f) ((s.setCodes c).finish r g) := by
  cases r with
  | ok a => exact hfg a
  | error e => exact eqUpToFlags_raise s e

end Tables

/-- The Request shape holds the two codes the source gives, the same under all tables (R156). -/
theorem requestDefaults_eq (c d : Codes) : requestDefaults c = requestDefaults d := rfl

/-- Every operation but INITR ends alike under any tables, up to the flags and `LR.CLASS`. -/
theorem exec_setCodes_of_ne_initr {s t : State} {i : Instr} (c : Codes)
    (hi : i ∈ [Instr.initq, .initr, .enc, .dec, .lgn]) (hne : i ≠ .initr) (h : exec i s = .next t) :
    ∃ u, exec i (s.setCodes c) = .next u ∧ EqUpToFlags c t u := by
  simp only [List.mem_cons, List.not_mem_nil, or_false] at hi
  rcases hi with rfl | rfl | rfl | rfl | rfl <;> obtain rfl : _ = t := Host.Outcome.next.inj h
  · refine ⟨_, rfl, ?_⟩
    rw [requestDefaults_eq (s.setCodes c).codes s.codes]
    exact eqUpToFlags_loadShape s _
  · exact absurd rfl hne
  · exact ⟨_, rfl, eqUpToFlags_finish s _ (eqUpToFlags_commitEnc s)⟩
  · exact ⟨_, rfl, eqUpToFlags_finish s _ (eqUpToFlags_commitDec s)⟩
  · exact ⟨_, rfl, eqUpToFlags_finish s _ (eqUpToFlags_commitLgn s)⟩

/-- Settles O56: INITR loads the code of `ip_response`; every other operation ends alike up to the flags. -/
theorem codeTablesReachOnlyTheFlags : Obligations.CodeTablesReachOnlyTheFlags := by
  intro i s t c hi h
  by_cases hne : i = .initr
  · subst hne
    obtain rfl : _ = t := Host.Outcome.next.inj h
    exact ⟨_, rfl, rfl, rfl, rfl, fun hinitr => absurd rfl hinitr⟩
  · obtain ⟨u, hu, heq⟩ := exec_setCodes_of_ne_initr c hi hne h
    have hh : u.h = t.h := heq.header
    refine ⟨u, hu, heq.error, ?_, ?_, fun _ => hh⟩
    · rw [hh]
      exact heq.state
    · rw [hh]

end Sys2Proof.Machine
end

section
/-! The encryption transform (`41_encryption_transform.md`): what the value on the key port reaches, that decryption
undoes encryption, what ENC hands to the cipher, and that DEC delivers with any key. -/

namespace Sys2Proof.Machine

/-! ### What the key port reaches -/

section KeyPorts

variable {p q : KeyPort} (hpq : keyOrFail p = keyOrFail q)
include hpq

/-- Encoding a region sees the key port through `key_or_fail` alone (R110, R136). -/
theorem encodeRegion_congr_port (c : Cipher) (enc : Bool) (b : List Byte) :
    encodeRegion c p enc b = encodeRegion c q enc b := by
  simp only [encodeRegion, hpq]

/-- Decoding a ciphertext block sees the key port through `key_or_fail` alone (R110, R140). -/
theorem decodeCiph_congr_port (c : Cipher) (n : Nat) (r : List Byte) : decodeCiph c p n r = decodeCiph c q n r := by
  simp only [decodeCiph, hpq]

theorem encResult_congr_port (c : Cipher) (h : Header) (b : List Byte) (n : Half) :
    encResult c p h b n = encResult c q h b n := by
  simp only [encResult, encodeRegion_congr_port hpq]

theorem decResult_congr_port (c : Cipher) (b : List Byte) : decResult c p b = decResult c q b := by
  simp only [decResult, decodeRegion, decodeCiph_congr_port hpq]

end KeyPorts

/-- An operation with the same result, whose commit leaves the key port, ends alike whatever the port shows. -/
theorem State.next_finish_setKeyPort {α : Type} {s : State} {p : KeyPort} {r r' : Except Err α} {f g : α → State}
    (hr : r' = r) (hfg : ∀ a, g a = (f a).setKeyPort p) :
    (.next ((s.setKeyPort p).finish r' g) : Host.Outcome State Fault Refusal) =
      .next ((s.finish r f).setKeyPort p) := by
  subst hr
  cases r' with
  | ok a => exact congrArg _ (hfg a)
  | error e => rfl

/-- Every instruction ends alike under two key ports that `key_or_fail` does not tell apart: ENC, DEC and the ciphertext
row look at the port through it alone, and the other rows not at all (R105, R110). -/
theorem exec_setKeyPort {s t : State} {p : KeyPort} (hp : keyOrFail p = keyOrFail s.keyPort) {i : Instr}
    (h : exec i s = .next t) : exec i (s.setKeyPort p) = .next (t.setKeyPort p) := by
  cases i <;> obtain rfl : _ = t := Host.Outcome.next.inj h
  case enc => exact State.next_finish_setKeyPort (encResult_congr_port hp _ _ _ _) fun _ => rfl
  case dec => exact State.next_finish_setKeyPort (decResult_congr_port hp _ _) fun _ => rfl
  case framePayloadCiph => exact State.next_finish_setKeyPort (decodeCiph_congr_port hp _ _ _) fun _ => rfl
  case lgn => exact State.next_finish_setKeyPort rfl fun _ => rfl
  case framePayloadRaw => exact State.next_finish_setKeyPort rfl fun _ => rfl
  all_goals rfl

/-- Settles O25: with `KEY_VALID` 0 `key_or_fail` answers `MissingKey` whatever stands on `KEY`. -/
theorem keyNotReadWithoutKeyValid : Obligations.KeyNotReadWithoutKeyValid := by
  intro i s t k hvalid h
  have hnoKey : keyOrFail { valid := false, key := k } = keyOrFail s.keyPort :=
    (keyOrFail_eq_error.2 ⟨hvalid, rfl⟩).symm
  exact exec_setKeyPort hnoKey h

/-! ### Encrypting and decrypting -/

/-- The padded plaintext begins with the plaintext (R108). -/
theorem take_padPlain (b : List Byte) : (padPlain b).take b.length = b := by simp [padPlain]

/-- Decrypting gives the padded plaintext back, of which the declared length keeps the plaintext (R108, R109). -/
theorem xfDecrypt_xfEncrypt (c : Cipher) (b : List Byte) (k : Key) (h : (xfEncrypt c b k).length % 16 = 0) :
    xfDecrypt c (xfEncrypt c b k) h k b.length = b := by
  have hinv : ciphDec c k (xfEncrypt c b k) h = padPlain b := ciphDec_ciphEnc c k (padPlain b) _ h
  rw [xfDecrypt, hinv, take_padPlain]

/-- Settles O30: the ciphertext is whole blocks, and decrypting it gives the payload back. -/
theorem transformRoundTrip : Obligations.TransformRoundTrip := by
  intro c b k
  have hblocks : (xfEncrypt c b k).length % 16 = 0 := by rw [length_xfEncrypt, align16_mod]
  exact ⟨hblocks, xfDecrypt_xfEncrypt c b k hblocks⟩

/-! ### The encrypted region of ENC and DEC -/

/-- What follows the 16 bytes of the header in the frame ENC commits is the payload region (R138). -/
theorem drop_hdrEncode_append (h : Header) (body : List Byte) : (hdrEncode h ++ body).drop hdrWire = body :=
  List.drop_left' (length_hdrEncode h)

/-- Settles O59: with the encrypt bit and a key the region is `CIPH_ENC` of the padded payload, without a second pad. -/
theorem encHandsPaddedPayloadToTheCipher : Obligations.EncHandsPaddedPayloadToTheCipher := by
  intro s henc hkey
  have hregion : encodeRegion Config.cipher s.keyPort s.h.encrypt (s.content .pbuf) =
      .ok (xfEncrypt Config.cipher (s.content .pbuf) s.key) := encodeRegion_eq_ok.2 (.inr ⟨henc, hkey, rfl⟩)
  refine ⟨_, padPlain (s.content .pbuf), ?_, exec_enc_of_region hregion, rfl, ?_⟩
  · rw [length_padPlain, align16_mod]
  · rw [State.commitEnc_content_fbuf]
    exact drop_hdrEncode_append _ _

/-- An encrypted region that is long enough decodes under any key presented (R111, R140). -/
theorem exists_decodeRegion_of_encrypt (c : Cipher) {port : KeyPort} {enc : Bool} {n : Nat} {r : List Byte}
    (henc : enc = true) (hkey : port.valid = true) (hlen : align16 n ≤ r.length) :
    ∃ b, decodeRegion c port enc n r = .ok b := by
  have hblocks : (r.take (align16 n)).length % 16 = 0 := by rw [List.length_take_of_le hlen, align16_mod]
  rw [decodeRegion, if_pos henc]
  exact ⟨_, decodeCiph_eq_ok.2 ⟨hkey, hlen, hblocks, rfl⟩⟩

/-- Settles O31: the region decodes whatever the key, and what it decodes to has the declared length. -/
theorem anyKeyDelivers : Obligations.AnyKeyDelivers := by
  intro s h hhdr hkey henc hlen
  have hregionLen : align16 h.length.toNat ≤ ((s.content .fbuf).drop hdrWire).length := by
    rw [List.length_drop, hdrWire]
    omega
  obtain ⟨b, hb⟩ := exists_decodeRegion_of_encrypt (enc := h.encrypt) (port := s.keyPort) Config.cipher henc hkey
    hregionLen
  refine ⟨_, exec_dec_of_region hhdr hb, statusErr_statusWord _ _ _ _, rfl, ?_⟩
  rw [State.commitDec_content_pbuf]
  exact (length_of_decodeRegion hb).1

end Sys2Proof.Machine
end

section
/-! The header codec (`42_header_codec.md`): the byte sequences that decode to a header are the nine bytes of its
logical form followed by seven or more, so encoding and decoding are inverse but for the pad, and the header row
decodes. -/

namespace Sys2Proof.Machine

/-- The encoding is the nine logical bytes and a pad of seven (R120). -/
theorem hdrEncode_eq_append (h : Header) : hdrEncode h = hdrLogicalBytes h ++ List.replicate 7 0xEE := rfl

theorem length_hdrLogicalBytes (h : Header) : (hdrLogicalBytes h).length = 9 := rfl

/-- The logical bytes of the fields read by position are the bytes they are read from (R17, R123). -/
theorem hdrLogicalBytes_fromLe16 (lo hi mt fl cmd sub u1 u2 : Byte) :
    hdrLogicalBytes
      { length := fromLe16 lo hi, msgType := mt, flags := fl, command := cmd, subCommand := sub, unknown1 := u1,
        unknown2 := u2 } = [sof, lo, hi, mt, fl, cmd, sub, u1, u2] := by
  simp [hdrLogicalBytes, le16]

/-- Bytes decode to a header exactly when they begin with its nine logical bytes and at least seven more follow, which
are ignored (R123). -/
theorem hdrDecode_eq_ok_iff_append {b : List Byte} {h : Header} :
    hdrDecode b = .ok h ↔ ∃ r : List Byte, 7 ≤ r.length ∧ b = hdrLogicalBytes h ++ r := by
  constructor
  · intro hdec
    obtain ⟨hlen, hsof, rfl⟩ := hdrDecode_eq_ok.1 hdec
    refine ⟨b.drop 9, by rw [List.length_drop]; omega, ?_⟩
    rw [hdrLogicalBytes_fromLe16, ← hsof]
    simp only [List.cons_append, List.nil_append, List.getElem_cons_drop, List.drop_zero]
  · rintro ⟨r, hr, rfl⟩
    refine hdrDecode_eq_ok.2 ⟨by rw [List.length_append, length_hdrLogicalBytes]; omega, rfl, ?_⟩
    simp [hdrLogicalBytes, le16]

/-- Bytes that begin with the marker decode to the fields by position (R123). -/
theorem hdrDecode_sof_append (lo hi mt fl cmd sub u1 u2 : Byte) {r : List Byte} (hr : 7 ≤ r.length) :
    hdrDecode ([sof, lo, hi, mt, fl, cmd, sub, u1, u2] ++ r) = .ok
      { length := fromLe16 lo hi, msgType := mt, flags := fl, command := cmd, subCommand := sub, unknown1 := u1,
        unknown2 := u2 } :=
  hdrDecode_eq_ok_iff_append.2 ⟨r, hr, by rw [hdrLogicalBytes_fromLe16]⟩

/-- Settles O29: both laws by the form of the bytes that decode to a header. -/
theorem headerRoundTrip : Obligations.HeaderRoundTrip := by
  refine ⟨fun h t => ?_, fun b h hdec => ?_⟩
  · refine hdrDecode_eq_ok_iff_append.2 ⟨List.replicate 7 0xEE ++ t, by simp, ?_⟩
    rw [hdrEncode_eq_append, List.append_assoc]
  · obtain ⟨r, -, rfl⟩ := hdrDecode_eq_ok_iff_append.1 hdec
    rw [List.take_left' (length_hdrLogicalBytes h), hdrEncode_eq_append]

/-- A valid header's bytes are the row's, at the place of the header (R61, R123). -/
theorem decodeAt_header {c : Codes} {b : List Byte} {h : Header} (hdec : hdrDecode b = .ok h) :
    decodeAt c .header b = .ok (.frameHdr16 h) := by
  simp only [decodeAt, hdec]

/-- The row answers its fields and changes nothing else (log 7). -/
theorem exec_frameHdr16 (h : Header) (s : State) : exec (.frameHdr16 h) s = .next { s with reply := .header h } := rfl

/-- Settles O50: the pad and what follows it are at least the seven bytes after the fields, so the header decodes. -/
theorem headerRowAnswers : Obligations.HeaderRowAnswers := by
  intro s lo hi mt fl cmd sub u1 u2 pad rest hpad
  have hrest : 7 ≤ (pad ++ rest).length := by rw [List.length_append]; omega
  have hdec := hdrDecode_sof_append lo hi mt fl cmd sub u1 u2 hrest
  rw [List.append_assoc]
  exact ⟨_, _, decodeAt_header hdec, rfl, exec_frameHdr16 _ s, fromLe16_toNat lo hi, rfl, rfl, rfl, rfl, rfl, rfl⟩

end Sys2Proof.Machine
end

section
/-! The message codec (`43_message_codec.md`): what ENC and DEC commit, that a message encoded and then decoded arrives,
the rules of both operations with their frames, what they do not look at, the frame ENC produces, and starting either
again. -/

namespace Sys2Proof.Machine

/-! ### The payload region -/

section Region

variable {c : Cipher} {port : KeyPort} {enc : Bool} {n : Nat} {b p r : List Byte}

/-- A region is decoded from its first `regionLength` bytes alone (R140, R145). -/
theorem decodeRegion_of_take_eq {r' : List Byte} (h : decodeRegion c port enc n r = .ok p)
    (hr : r'.take (regionLength enc n) = r.take (regionLength enc n)) (hlen : regionLength enc n ≤ r'.length) :
    decodeRegion c port enc n r' = .ok p := by
  cases enc with
  | false =>
    obtain ⟨-, rfl⟩ := decodeRaw_eq_ok.1 h
    exact decodeRaw_eq_ok.2 ⟨hlen, hr.symm⟩
  | true =>
    obtain ⟨hvalid, -, hblocks, rfl⟩ := decodeCiph_eq_ok.1 h
    have htake : r'.take (align16 n) = r.take (align16 n) := hr
    refine decodeCiph_eq_ok.2 ⟨hvalid, hlen, by rwa [htake], ?_⟩
    simp only [htake]

/-- The region ENC writes decodes to the payload, with the same key where there is one (R146, R147). -/
theorem decodeRegion_encodeRegion {q : KeyPort} (h : encodeRegion c port enc p = .ok b)
    (hkey : enc = true → q.valid = true ∧ q.key = port.key) : decodeRegion c q enc p.length b = .ok p := by
  rcases encodeRegion_eq_ok.1 h with ⟨rfl, rfl⟩ | ⟨rfl, -, rfl⟩
  · exact decodeRaw_eq_ok.2 ⟨le_rfl, List.take_length.symm⟩
  · obtain ⟨hvalid, hsame⟩ := hkey rfl
    have hlen := length_xfEncrypt c p port.key
    have hblocks : (xfEncrypt c p port.key).length % 16 = 0 := by rw [hlen, align16_mod]
    have htake : (xfEncrypt c p port.key).take (align16 p.length) = xfEncrypt c p port.key :=
      List.take_of_length_le hlen.le
    refine decodeCiph_eq_ok.2 ⟨hvalid, hlen.ge, by rwa [htake], ?_⟩
    simp only [htake, hsame, xfDecrypt_xfEncrypt]

/-- Without the encrypt bit the region is the payload, whatever the key port shows (R137). -/
theorem encodeRegion_of_clear (hclear : enc = false) : encodeRegion c port enc p = .ok p :=
  encodeRegion_eq_ok.2 (.inl ⟨hclear, rfl⟩)

/-- With the encrypt bit and a key the region is the encrypted payload (R136). -/
theorem encodeRegion_of_key (henc : enc = true) (hkey : port.valid = true) :
    encodeRegion c port enc p = .ok (xfEncrypt c p port.key) := encodeRegion_eq_ok.2 (.inr ⟨henc, hkey, rfl⟩)

theorem decodeRegion_of_clear (hclear : enc = false) : decodeRegion c port enc n r = decodeRaw n r := by
  rw [hclear]
  rfl

theorem decodeRegion_of_encrypt (henc : enc = true) : decodeRegion c port enc n r = decodeCiph c port n r := if_pos henc

end Region

/-! ### What ENC and DEC commit -/

/-- `PLEN` is wide enough for the payload of a buffer within its capacity (R22). -/
theorem State.plen_toNat {s : State} (hs : s.mem.wf = true) : s.plen.toNat = (s.content .pbuf).length :=
  Nat.mod_eq_of_lt ((State.content_length_le hs .pbuf).trans_lt (by decide))

/-- ENC of a region that encodes commits the header, with the derived length, and the region (R138). -/
theorem exec_enc_commits {s : State} {b : List Byte} (hs : s.mem.wf = true)
    (hb : encodeRegion Config.cipher s.keyPort s.h.encrypt (s.content .pbuf) = .ok b) :
    ∃ t, exec .enc s = .next t ∧ EncCommits s t b := by
  have hlen : (hdrEncode { s.h with length := s.plen } ++ b).length = 16 + b.length := by
    rw [List.length_append, length_hdrEncode, hdrWire]
  have hcap : 16 + b.length ≤ fmax := by
    rw [length_of_encodeRegion hb]
    exact hdrWire_add_regionLength_le (State.content_length_le hs .pbuf) _
  refine ⟨_, exec_enc_of_region hb, ?_⟩
  exact {
    length := rfl
    frame := State.commitEnc_content_fbuf _ _
    flen := (State.setFbuf_flen_toNat (s := s) (hlen.trans_le hcap)).trans hlen
    status := rfl
    payload := fun _ => rfl
    plen := rfl
    consumed := rfl
    login := rfl
    outside := ⟨rfl, rfl, rfl, rfl, rfl⟩ }

/-- DEC of a header and a region that decode commits the fields and a payload of the declared length (R142). -/
theorem exec_dec_commits {s : State} {h : Header} {p : List Byte} (hhdr : hdrDecode (s.content .fbuf) = .ok h)
    (hregion : decodeRegion Config.cipher s.keyPort h.encrypt h.length.toNat ((s.content .fbuf).drop hdrWire) =
      .ok p) :
    ∃ t, exec .dec s = .next t ∧ DecCommits s t h p (16 + regionLength h.encrypt h.length.toNat) := by
  have hdeclared : h.length.toNat ≤ pmax := Nat.le_of_lt_succ h.length.isLt
  have hlen : p.length = h.length.toNat := (length_of_decodeRegion hregion).1
  have hcap : 16 + regionLength h.encrypt h.length.toNat ≤ fmax := hdrWire_add_regionLength_le hdeclared _
  refine ⟨_, exec_dec_of_region hhdr hregion, ?_⟩
  exact {
    header := rfl
    payload := State.commitDec_content_pbuf _ _
    plen := BitVec.eq_of_toNat_eq ((State.setPbuf_plen_toNat (s := s) (hlen.trans_le hdeclared)).trans hlen)
    plenNat := hlen
    consumed := Nat.mod_eq_of_lt (hcap.trans_lt (by decide))
    status := rfl
    frame := fun _ => rfl
    flen := rfl
    login := rfl
    outside := ⟨rfl, rfl, rfl, rfl, rfl⟩ }

/-- A DEC that reports no error has decoded a header and a region, and has committed them (R142). -/
theorem decCommits_of_exec_dec {s t : State} (h : exec .dec s = .next t) (he : statusErr t.status = 0) :
    ∃ hd p, hdrDecode (s.content .fbuf) = .ok hd ∧
      decodeRegion Config.cipher s.keyPort hd.encrypt hd.length.toNat ((s.content .fbuf).drop hdrWire) = .ok p ∧
      DecCommits s t hd p (16 + regionLength hd.encrypt hd.length.toNat) := by
  obtain ⟨hd, p, hhdr, hregion, -⟩ := exec_dec_ok h he
  obtain ⟨u, hu, hc⟩ := exec_dec_commits hhdr hregion
  obtain rfl : u = t := Host.Outcome.next.inj (hu.symm.trans h)
  exact ⟨hd, p, hhdr, hregion, hc⟩

theorem DecCommits.statusErr_eq_zero {s t : State} {h : Header} {p : List Byte} {used : Nat}
    (hc : DecCommits s t h p used) : statusErr t.status = 0 := by
  rw [hc.status, statusErr_statusWord]

/-! ### A message encoded and then decoded -/

/-- The frame of a message decodes to it on every instance that, where the message is encrypted, presents the same key
(R146, R147, R152). -/
theorem exec_dec_of_exec_enc {s : State} (u : State) {b : List Byte} (hs : s.mem.wf = true)
    (hb : encodeRegion Config.cipher s.keyPort s.h.encrypt (s.content .pbuf) = .ok b)
    (hkey : s.h.encrypt = true → u.keyValid = true ∧ u.key = s.key) :
    ∃ t v, exec .enc s = .next t ∧ exec .dec (u.setFbuf (t.content .fbuf)) = .next v ∧
      v.h = { s.h with length := s.plen } ∧ v.content .pbuf = s.content .pbuf ∧ statusErr v.status = 0 ∧
      v.consumed = t.flen ∧ v.lr = u.lr := by
  obtain ⟨t, ht, henc⟩ := exec_enc_commits hs hb
  have hframe : (u.setFbuf (t.content .fbuf)).content .fbuf = hdrEncode { s.h with length := s.plen } ++ b :=
    (State.setFbuf_content_fbuf _ _).trans henc.frame
  have hhdr : hdrDecode ((u.setFbuf (t.content .fbuf)).content .fbuf) = .ok { s.h with length := s.plen } := by
    rw [hframe]
    exact headerRoundTrip.1 _ b
  have hregion : decodeRegion Config.cipher u.keyPort s.h.encrypt s.plen.toNat
      (((u.setFbuf (t.content .fbuf)).content .fbuf).drop hdrWire) = .ok (s.content .pbuf) := by
    rw [hframe, drop_hdrEncode_append, State.plen_toNat hs]
    exact decodeRegion_encodeRegion hb hkey
  have hused : 16 + regionLength s.h.encrypt s.plen.toNat = t.flen.toNat := by
    rw [henc.flen, length_of_encodeRegion hb, State.plen_toNat hs]
  obtain ⟨v, hv, hdec⟩ := exec_dec_commits hhdr hregion
  exact ⟨t, v, ht, hv, hdec.header, hdec.payload, hdec.statusErr_eq_zero,
    BitVec.eq_of_toNat_eq (hdec.consumed.trans hused), hdec.login⟩

/-- Settles O32: the region is the payload itself, and no key is needed on either side. -/
theorem clearMessageRoundTrip : Obligations.ClearMessageRoundTrip := by
  intro s u hs hclear
  refine exec_dec_of_exec_enc u hs (encodeRegion_of_clear hclear) fun henc => ?_
  exact absurd (hclear.symm.trans henc) Bool.false_ne_true

/-- Settles O33: the region is the encrypted payload, and decryption under the same key undoes it. -/
theorem encryptedMessageRoundTrip : Obligations.EncryptedMessageRoundTrip := by
  intro s u hs henc hkey hukey hsame
  exact exec_dec_of_exec_enc u hs (encodeRegion_of_key henc hkey) fun _ => ⟨hukey, hsame⟩

/-! ### The rules of ENC and DEC, and their frames -/

/-- ENC of an encrypted message with no key takes `MissingKey` (R137, R138). -/
theorem exec_enc_of_missingKey {s : State} (henc : s.h.encrypt = true) (hkey : s.keyValid = false) :
    exec .enc s = .next (s.raise .missingKey) := by
  show Host.Outcome.next _ = _
  rw [encResult_eq_error.2 ⟨henc, hkey, rfl⟩, State.finish_error]

/-- Settles O12: by the encrypt bit and the key; the pad of the encrypted region is empty. -/
theorem encFollowsItsRule : Obligations.EncFollowsItsRule := by
  intro s hs
  by_cases henc : s.h.flags.getLsbD 0 = true
  · by_cases hkey : s.keyValid = false
    · refine ⟨_, exec_enc_of_missingKey henc hkey, ?_⟩
      rw [if_pos henc, if_pos hkey]
      rfl
    · have hvalid : s.keyPort.valid = true := Bool.of_not_eq_false hkey
      obtain ⟨t, ht, hc⟩ := exec_enc_commits hs (encodeRegion_of_key henc hvalid)
      refine ⟨t, ht, ?_⟩
      rw [if_pos henc, if_neg hkey, pad16_xfEncrypt]
      exact hc
  · obtain ⟨t, ht, hc⟩ := exec_enc_commits hs (encodeRegion_of_clear (Bool.eq_false_of_not_eq_true henc))
    refine ⟨t, ht, ?_⟩
    rw [if_neg henc]
    exact hc

/-- DEC of a header whose region does not decode takes the region's error (R142). -/
theorem exec_dec_of_region_error {s : State} {h : Header} {e : Err} (hhdr : hdrDecode (s.content .fbuf) = .ok h)
    (hregion : decodeRegion Config.cipher s.keyPort h.encrypt h.length.toNat ((s.content .fbuf).drop hdrWire) =
      .error e) : exec .dec s = .next (s.raise e) :=
  exec_dec_of_error (decResult_eq_error.2 (.inr ⟨h, hhdr, hregion⟩))

/-- DEC of an encrypted message: the key first, then the length of the ciphertext block (R142, R181). -/
theorem exec_dec_of_encrypt {s : State} {h : Header} {region : List Byte}
    (hhdr : hdrDecode (s.content .fbuf) = .ok h) (hregion : (s.content .fbuf).drop hdrWire = region)
    (henc : h.encrypt = true) :
    ∃ t, exec .dec s = .next t ∧
      if s.keyValid = false then t = { s with status := 0x02 }
      else if region.length < align16 h.length.toNat then t = { s with status := 0x03 }
      else ∃ hm, DecCommits s t h
        ((ciphDec Config.cipher s.key (region.take (align16 h.length.toNat)) hm).take h.length.toNat)
        (16 + align16 h.length.toNat) := by
  have hfail {e : Err} := exec_dec_of_region_error (e := e) hhdr
  have hcommit {p : List Byte} := exec_dec_commits (p := p) hhdr
  rw [hregion, decodeRegion_of_encrypt henc] at hfail hcommit
  by_cases hkey : s.keyValid = false
  · simp only [if_pos hkey]
    exact ⟨_, hfail (decodeCiph_eq_error.2 (.inl ⟨hkey, rfl⟩)), rfl⟩
  · have hvalid : s.keyPort.valid = true := Bool.of_not_eq_false hkey
    simp only [if_neg hkey]
    by_cases hlen : region.length < align16 h.length.toNat
    · simp only [if_pos hlen]
      exact ⟨_, hfail (decodeCiph_eq_error.2 (.inr ⟨hvalid, hlen, rfl⟩)), rfl⟩
    · have hle := Nat.le_of_not_lt hlen
      have hblocks : (region.take (align16 h.length.toNat)).length % 16 = 0 := by
        rw [List.length_take_of_le hle, align16_mod]
      obtain ⟨t, ht, hc⟩ := hcommit (decodeCiph_eq_ok.2 ⟨hvalid, hle, hblocks, rfl⟩)
      rw [henc] at hc
      simp only [if_neg hlen]
      exact ⟨t, ht, hblocks, hc⟩

/-- DEC of a clear message: the length of the payload alone (R137, R142). -/
theorem exec_dec_of_clear {s : State} {h : Header} {region : List Byte}
    (hhdr : hdrDecode (s.content .fbuf) = .ok h) (hregion : (s.content .fbuf).drop hdrWire = region)
    (hclear : h.encrypt = false) :
    ∃ t, exec .dec s = .next t ∧
      if region.length < h.length.toNat then t = { s with status := 0x03 }
      else DecCommits s t h (region.take h.length.toNat) (16 + h.length.toNat) := by
  have hfail {e : Err} := exec_dec_of_region_error (e := e) hhdr
  have hcommit {p : List Byte} := exec_dec_commits (p := p) hhdr
  rw [hregion, decodeRegion_of_clear hclear] at hfail hcommit
  by_cases hlen : region.length < h.length.toNat
  · simp only [if_pos hlen]
    exact ⟨_, hfail (decodeRaw_eq_error.2 ⟨hlen, rfl⟩), rfl⟩
  · obtain ⟨t, ht, hc⟩ := hcommit (decodeRaw_eq_ok.2 ⟨Nat.le_of_not_lt hlen, rfl⟩)
    rw [hclear] at hc
    simp only [if_neg hlen]
    exact ⟨t, ht, hc⟩

/-- Settles O13: a header that does not decode is the first error; one that does leaves the region after its 16 bytes,
encrypted or clear. -/
theorem decFollowsItsRule : Obligations.DecFollowsItsRule := by
  refine ⟨fun s hbad => ?_, fun s lo hi mt fl cmd sub u1 u2 pad region hb hpad => ?_⟩
  · exact exec_dec_of_error (decResult_eq_error.2 (.inl (hdrDecode_eq_error.2 ⟨rfl, hbad⟩)))
  have hregion : (s.content .fbuf).drop hdrWire = region := by
    rw [hb]
    exact List.drop_left' (by simp [hpad, hdrWire])
  have hhdr := hdrDecode_sof_append lo hi mt fl cmd sub u1 u2 (r := pad ++ region) (by rw [List.length_append]; omega)
  rw [sof, ← List.append_assoc, ← hb] at hhdr
  simp only [← fromLe16_toNat, BitVec.ofNat_toNat, BitVec.setWidth_eq]
  by_cases henc : fl.getLsbD 0 = true
  · simp only [if_pos henc]
    exact exec_dec_of_encrypt hhdr hregion henc
  · simp only [if_neg henc]
    exact exec_dec_of_clear hhdr hregion (Bool.eq_false_of_not_eq_true henc)

/-- Settles O39: ENC replaces `H.LENGTH`, `FBUF` and `STATUS`, or `STATUS` alone. -/
theorem encFrame : Obligations.EncFrame := by
  intro s t h
  rcases exec_enc_cases h with ⟨r, -, rfl⟩ | ⟨-, -, rfl⟩
  · exact ⟨rfl, fun _ => rfl, rfl, rfl, rfl, ⟨rfl, rfl, rfl, rfl, rfl⟩,
      fun herr => absurd (statusErr_statusWord _ _ _ _) herr⟩
  · exact ⟨rfl, fun _ => rfl, rfl, rfl, rfl, ⟨rfl, rfl, rfl, rfl, rfl⟩, fun _ => ⟨rfl, fun _ => rfl, rfl⟩⟩

/-- Settles O40: DEC replaces the header registers, `PBUF`, `CONSUMED` and `STATUS`, or `STATUS` alone. -/
theorem decFrame : Obligations.DecFrame := by
  intro s t h
  rcases exec_dec_cases h with ⟨r, -, rfl⟩ | ⟨e, -, rfl⟩
  · exact ⟨fun _ => rfl, rfl, rfl, ⟨rfl, rfl, rfl, rfl, rfl⟩, fun herr => absurd (statusErr_statusWord _ _ _ _) herr⟩
  · exact ⟨fun _ => rfl, rfl, rfl, ⟨rfl, rfl, rfl, rfl, rfl⟩, fun _ => ⟨rfl, fun _ => rfl, rfl, rfl⟩⟩

/-! ### What ENC and DEC do not look at -/

/-- Settles O26: without the encrypt bit, in `H.FLAGS` or in the frame, the results are computed without the key port. -/
theorem clearMessagesIgnoreTheKeyPort : Obligations.ClearMessagesIgnoreTheKeyPort := by
  intro s t port
  constructor <;> intro hclear h <;> obtain rfl : _ = t := Host.Outcome.next.inj h
  · refine State.next_finish_setKeyPort ?_ fun _ => rfl
    rw [State.setKeyPort_h, State.setKeyPort_content, State.setKeyPort_plen]
    have henc : s.h.encrypt = false := hclear
    simp only [encResult, encodeRegion_of_clear henc]
  · refine State.next_finish_setKeyPort ?_ fun _ => rfl
    rw [State.setKeyPort_content]
    cases hhdr : hdrDecode (s.content .fbuf) with
    | error e => simp only [decResult, hhdr]
    | ok hd =>
      obtain ⟨-, -, hflags, -⟩ := hdrDecode_bytes hhdr
      have henc : hd.encrypt = false := by rwa [Header.encrypt, hflags]
      simp only [decResult, hhdr, decodeRegion_of_clear henc]

/-- A header is decoded from the first 16 bytes alone (R123). -/
theorem hdrDecode_take_append {b : List Byte} {h : Header} (hhdr : hdrDecode b = .ok h) {n : Nat} (hn : 16 ≤ n)
    (tail : List Byte) : hdrDecode (b.take n ++ tail) = .ok h := by
  obtain ⟨r, hr, rfl⟩ := hdrDecode_eq_ok_iff_append.1 hhdr
  refine hdrDecode_eq_ok_iff_append.2 ⟨r.take (n - 9) ++ tail, ?_, ?_⟩
  · rw [List.length_append, List.length_take]
    omega
  · rw [List.take_append, length_hdrLogicalBytes, List.append_assoc,
      List.take_of_length_le (by rw [length_hdrLogicalBytes]; omega)]

/-- A region is decoded from the bytes of the frame alone (R145). -/
theorem decodeRegion_take_append {c : Cipher} {port : KeyPort} {enc : Bool} {n : Nat} {b p : List Byte}
    (hb : hdrWire ≤ b.length) (hregion : decodeRegion c port enc n (b.drop hdrWire) = .ok p) (tail : List Byte) :
    decodeRegion c port enc n ((b.take (16 + regionLength enc n) ++ tail).drop hdrWire) = .ok p := by
  have htake : ((b.drop hdrWire).take (regionLength enc n)).length = regionLength enc n :=
    List.length_take_of_le (length_of_decodeRegion hregion).2
  have hdrop : (b.take (16 + regionLength enc n) ++ tail).drop hdrWire =
      (b.drop hdrWire).take (regionLength enc n) ++ tail := by
    have h16 : hdrWire ≤ (b.take (16 + regionLength enc n)).length :=
      List.length_take ▸ Nat.le_min.2 ⟨Nat.le_add_right _ _, hb⟩
    rw [List.drop_append_of_le_length h16, List.drop_take, hdrWire, Nat.add_sub_cancel_left]
  rw [hdrop]
  refine decodeRegion_of_take_eq hregion (List.take_left' htake) ?_
  rw [List.length_append, htake]
  exact Nat.le_add_right _ _

/-- Settles O28: header and region are decoded from the bytes up to `CONSUMED`. -/
theorem decIgnoresBytesAfterFrame : Obligations.DecIgnoresBytesAfterFrame := by
  intro s t tail h he
  obtain ⟨hd, p, hhdr, hregion, hc⟩ := decCommits_of_exec_dec h he
  rw [hc.consumed]
  have hhdr' := hdrDecode_take_append hhdr (Nat.le_add_right 16 (regionLength hd.encrypt hd.length.toNat)) tail
  have hregion' := decodeRegion_take_append (hdrDecode_bytes hhdr).1 hregion tail
  rw [← State.setFbuf_content_fbuf s (_ ++ tail)] at hhdr' hregion'
  obtain ⟨u, hu, hcu⟩ := exec_dec_commits hhdr' hregion'
  exact ⟨u, hu, hcu.header.trans hc.header.symm, hcu.payload.trans hc.payload.symm,
    BitVec.eq_of_toNat_eq (hcu.consumed.trans hc.consumed.symm), hcu.status.trans hc.status.symm⟩

/-! ### The frame ENC produces -/

/-- The first 16 offsets of the frame ENC commits read the header's encoding (R138). -/
theorem State.commitEnc_readByte_header (s : State) (n : Half) (h : Header) (body : List Byte) {a : Nat} (ha : a < 16) :
    (s.commitEnc { length := n, frame := hdrEncode h ++ body }).readByte .fbuf a = (hdrEncode h)[a]? := by
  rw [State.commitEnc_readByte_fbuf]
  exact List.getElem?_append_left ha

/-- Settles O34: the header's length bytes are `PLEN`'s, its last seven are its pad, and the region has the length its
encrypt bit gives it. -/
theorem encodedFrameShape : Obligations.EncodedFrameShape := by
  intro s t hs h he
  obtain ⟨b, hb, rfl⟩ := exec_enc_ok h he
  obtain ⟨u, hu, hc⟩ := exec_enc_commits hs hb
  obtain rfl : u = _ := Host.Outcome.next.inj (hu.symm.trans h)
  have hflen := hc.flen
  rw [length_of_encodeRegion hb, regionLength, Header.encrypt] at hflen
  have hread {a : Nat} (ha : a < 16) := s.commitEnc_readByte_header s.plen { s.h with length := s.plen } b ha
  refine ⟨⟨_, _, hread (a := 1) (by decide), hread (a := 2) (by decide), ?_⟩, fun a h9 h16 => ?_, ?_⟩
  · rw [← fromLe16_toNat, fromLe16_le16, State.plen_toNat hs]
  · rw [hread h16, hdrEncode_eq_append, List.getElem?_append_right h9, length_hdrLogicalBytes,
      List.getElem?_replicate_of_lt (by omega)]
  · have hmod := align16_mod (s.content .pbuf).length
    split_ifs at hflen ⊢
    · exact ⟨hflen, by omega⟩
    · exact hflen

/-- Settles O35: the header's encoding is the nine bytes it was decoded from and the pad, and a clear region is the
payload on both sides. -/
theorem reencodeClearFrame : Obligations.ReencodeClearFrame := by
  intro s t h he hclear
  obtain ⟨hd, p, hhdr, hregion, hc⟩ := decCommits_of_exec_dec h he
  have hpayload : p = ((s.content .fbuf).drop hdrWire).take hd.length.toNat := by
    have henc : hd.encrypt = false := hc.header ▸ hclear
    rw [decodeRegion_of_clear henc] at hregion
    exact (decodeRaw_eq_ok.1 hregion).2
  refine ⟨_, exec_enc_of_region (encodeRegion_of_clear hclear), ?_⟩
  rw [State.commitEnc_content_fbuf, hc.payload, hpayload, hc.plen, hc.header, headerRoundTrip.2 _ _ hhdr]
  rfl

/-! ### Starting an operation again -/

/-- Settles O37: the operands of ENC that ENC writes do not reach its result, and DEC writes none of its own. -/
theorem repeatedOperationIsStable : Obligations.RepeatedOperationIsStable := by
  intro i s t hi h he
  simp only [List.mem_cons, List.not_mem_nil, or_false] at hi
  rcases hi with rfl | rfl
  · obtain ⟨b, hb, rfl⟩ := exec_enc_ok h he
    exact exec_enc_of_region (s := s.commitEnc _) hb
  · obtain ⟨hd, p, hhdr, hregion, rfl⟩ := exec_dec_ok h he
    exact exec_dec_of_region (s := s.commitDec _) hhdr hregion

end Sys2Proof.Machine
end

section
/-! Login and the shapes (`44_login_and_system_ops.md`): what INITQ and INITR load, what LGN and the login payload's row
find in 25 bytes given by offset, and what the three operations leave unchanged. -/

namespace Sys2Proof.Machine

/-! ### The shapes -/

theorem exec_initq (s : State) : exec .initq s = .next (s.loadShape (requestDefaults s.codes)) := rfl

theorem exec_initr (s : State) : exec .initr s = .next (s.loadShape (responseDefaults s.codes)) := rfl

/-- The flags byte that both shapes load: `DEF_RSVD` in bits 7:1, the encrypt bit set (R32, D4). -/
theorem flagsByte_defaults : flagsByte defRsvd defEncrypt = 0x09 := rfl

theorem statusClear_eq_zero : statusClear = 0x00 := rfl

/-- Settles O10: the Request shape's codes are constants of every instance. -/
theorem initqLoadsRequestShape : Obligations.InitqLoadsRequestShape := by
  intro s
  rw [exec_initq, requestDefaults, flagsByte_defaults, State.loadShape, statusClear_eq_zero]
  rfl

/-- Settles O11: the Response shape is the Request shape with two bytes changed, one of them a code of the instance. -/
theorem initrLoadsResponseShape : Obligations.InitrLoadsResponseShape := by
  refine ⟨fun s => ?_, rfl⟩
  rw [exec_initr, responseDefaults, requestDefaults, flagsByte_defaults, State.loadShape, statusClear_eq_zero]
  rfl

/-! ### The login payload by offset -/

/-- A big-endian value is the little-endian value of the bytes swapped (R9). -/
theorem fromBe16_eq_fromLe16 (b0 b1 : Byte) : fromBe16 b0 b1 = fromLe16 b1 b0 := rfl

theorem fromBe16_toNat (b0 b1 : Byte) : (fromBe16 b0 b1).toNat = 256 * b0.toNat + b1.toNat := by
  rw [fromBe16_eq_fromLe16, fromLe16_toNat, Nat.add_comm]

@[simp] theorem be16_fromBe16 (b0 b1 : Byte) : be16 (fromBe16 b0 b1) = [b0, b1] := by
  rw [be16, fromBe16_eq_fromLe16, low_fromLe16, high_fromLe16]

/-- The class of a status byte by its cases (R98): the codes of class 2 are constants of every instance. -/
theorem lsClass_eq (c : Codes) (st : Byte) :
    lsClass c st =
      if st = c.success then 0 else if st = c.invalidPassword then 1
      else if st = 0x02 ∨ st = 0x04 then 2 else 3 := rfl

/-- The bytes of fields whose `HWVER` is given by its two bytes (R160). -/
theorem loginBytes_fromBe16 (st hw1 hw0 major minor : Byte) (key : Key) (serial : Serial) :
    loginBytes
      { status := st, key := key, hwver := fromBe16 hw1 hw0, fwMajor := major, fwMinor := minor, serial := serial } =
      [st] ++ key.toList ++ [hw1, hw0, major, minor] ++ serial.toList := by
  simp [loginBytes]

/-- Bytes given by offset parse to fields that hold them, `HWVER` big-endian, whatever follows (R160, R161): they are
the bytes of these fields. -/
theorem exists_loginParse (st hw1 hw0 major minor : Byte) {key serial : List Byte} (rest : List Byte)
    (hkey : key.length = 16) (hserial : serial.length = 4) :
    ∃ f, loginParse ([st] ++ key ++ [hw1, hw0, major, minor] ++ serial ++ rest) = .ok f ∧
      f.status = st ∧ f.key.toList = key ∧ f.hwver.toNat = 256 * hw1.toNat + hw0.toNat ∧ f.fwMajor = major ∧
      f.fwMinor = minor ∧ f.serial.toList = serial := by
  obtain ⟨k, rfl⟩ : ∃ k : Key, k.toList = key := ⟨⟨key.toArray, hkey⟩, rfl⟩
  obtain ⟨n, rfl⟩ : ∃ n : Serial, n.toList = serial := ⟨⟨serial.toArray, hserial⟩, rfl⟩
  rw [← loginBytes_fromBe16]
  exact ⟨_, loginParse_loginBytes _ rest, rfl, rfl, fromBe16_toNat hw1 hw0, rfl, rfl, rfl⟩

/-- LGN of a payload that parses commits its fields (R161). -/
theorem exec_lgn_of_parse {s : State} {f : LoginFields} (hf : loginParse (s.content .pbuf) = .ok f) :
    exec .lgn s = .next (s.commitLgn f) := by
  show Host.Outcome.next _ = _
  rw [hf, State.finish_ok]

/-- LGN of fewer than 25 bytes takes `PayloadTruncated` (R161, R177). -/
theorem exec_lgn_of_lt {s : State} (hshort : (s.content .pbuf).length < 25) :
    exec .lgn s = .next (s.raise .payloadTruncated) := by
  show Host.Outcome.next _ = _
  rw [loginParse_eq_error.2 ⟨hshort, rfl⟩, State.finish_error]

/-- Settles O14: a short payload is truncated; a long one is read by offset and its fields are committed. -/
theorem lgnFollowsItsRule : Obligations.LgnFollowsItsRule := by
  refine ⟨fun s hshort => exec_lgn_of_lt hshort, ?_⟩
  intro s st hw1 hw0 major minor key serial rest hp hkey hserial
  obtain ⟨f, hf, hst, hk, hhw, hmajor, hminor, hser⟩ := exists_loginParse st hw1 hw0 major minor rest hkey hserial
  rw [← hp] at hf
  have hcls : (s.commitLgn f).lr.cls = lsClass s.codes st := congrArg (lsClass s.codes) hst
  exact ⟨_, exec_lgn_of_parse hf, hst, hcls.trans (lsClass_eq s.codes st), hk, hhw, hmajor, hminor, hser,
    rfl, rfl, fun _ => rfl, fun _ => rfl, rfl, rfl, rfl, rfl, rfl, rfl⟩

/-! ### The login payload's row -/

/-- A login payload that parses is the row's, at the place of the login payload (R160). -/
theorem decodeAt_loginPayload {c : Codes} {b : List Byte} {f : LoginFields} (hf : loginParse b = .ok f) :
    decodeAt c .loginPayload b = .ok (.login25 f) := by
  simp only [decodeAt, hf]

/-- The row answers its fields with their class and changes nothing else (log 7). -/
theorem exec_login25 (f : LoginFields) (s : State) :
    exec (.login25 f) s = .next { s with reply := .login { fields := f, cls := lsClass s.codes f.status } } := rfl

/-- Settles O53: the bytes parse to the fields by offset, and the row answers these with the class of the first byte. -/
theorem loginLayoutRowAnswers : Obligations.LoginLayoutRowAnswers := by
  intro s st hw1 hw0 major minor key serial rest hkey hserial cls
  obtain ⟨f, hf, rfl, hfields⟩ := exists_loginParse st hw1 hw0 major minor rest hkey hserial
  have hcls : lsClass s.codes f.status = cls := lsClass_eq s.codes f.status
  exact ⟨_, f, decodeAt_loginPayload hf, rfl, hcls ▸ exec_login25 f s, rfl, hfields⟩

/-! ### Frames -/

/-- Settles O38: a shape loaded writes the header registers and `STATUS`, LGN the login record and `STATUS`, an error
`STATUS` alone. -/
theorem shapesAndLoginFrame : Obligations.ShapesAndLoginFrame := by
  intro i s t hi h
  simp only [List.mem_cons, List.not_mem_nil, or_false] at hi
  rcases hi with rfl | rfl | rfl
  case inl | inr.inl =>
    obtain rfl : s.loadShape _ = t := Host.Outcome.next.inj h
    exact ⟨fun _ => rfl, fun _ => rfl, rfl, rfl, rfl, ⟨rfl, rfl, rfl, rfl, rfl⟩, fun _ => rfl, nofun⟩
  case inr.inr =>
    rcases exec_lgn_cases h with ⟨f, -, rfl⟩ | ⟨-, rfl⟩
    · exact ⟨fun _ => rfl, fun _ => rfl, rfl, rfl, rfl, ⟨rfl, rfl, rfl, rfl, rfl⟩, fun hne => absurd rfl hne,
        fun _ => rfl⟩
    · exact ⟨fun _ => rfl, fun _ => rfl, rfl, rfl, rfl, ⟨rfl, rfl, rfl, rfl, rfl⟩, fun _ => rfl, fun _ => rfl⟩

end Sys2Proof.Machine
end

section
/-! Errors (`60_exceptions.md`): the one error an operation ends in, as a function of the state it starts from and in
the order of R181; that `STATUS.ERR` reports it and nothing else changes; what the unknown enumeration codes reach; and
that neither the old `STATUS` nor an idle step changes anything. -/

namespace Sys2Proof.Machine

/-! ### The error of a computation -/

/-- The error a computation ends in, if any. -/
def errorOf {α : Type} : Except Err α → Option Err
  | .ok _ => none
  | .error e => some e

/-- The value of `STATUS.ERR` that reports how an operation ended (R21, R180). -/
def errCode : Option Err → BitVec 3
  | none => 0
  | some e => e.code

theorem errorOf_eq_some {α : Type} {r : Except Err α} {e : Err} : errorOf r = some e ↔ r = .error e := by
  cases r <;> simp [errorOf]

theorem errCode_injective : Function.Injective errCode := by
  rintro (_ | e) (_ | d)
  case none.none => exact fun _ => rfl
  case none.some => cases d <;> decide
  case some.none => cases e <;> decide
  case some.some => cases e <;> cases d <;> decide

/-- Encoding a region fails for want of a key alone (R110, R137). -/
theorem errorOf_encodeRegion (c : Cipher) (port : KeyPort) (enc : Bool) (p : List Byte) :
    errorOf (encodeRegion c port enc p) = if enc = true ∧ port.valid = false then some .missingKey else none := by
  cases hr : encodeRegion c port enc p with
  | error e =>
    obtain ⟨henc, hkey, rfl⟩ := encodeRegion_eq_error.1 hr
    exact (if_pos ⟨henc, hkey⟩).symm
  | ok b =>
    refine (if_neg ?_).symm
    rintro ⟨henc, hkey⟩
    rw [encodeRegion_eq_error.2 ⟨henc, hkey, rfl⟩] at hr
    cases hr

theorem errorOf_encResult (c : Cipher) (port : KeyPort) (h : Header) (p : List Byte) (n : Half) :
    errorOf (encResult c port h p n) = errorOf (encodeRegion c port h.encrypt p) := by
  unfold encResult
  cases encodeRegion c port h.encrypt p <;> rfl

theorem errorOf_loginParse (p : List Byte) :
    errorOf (loginParse p) = if p.length < 25 then some .payloadTruncated else none := by
  unfold loginParse
  split_ifs <;> rfl

/-- Decoding a region needs the key first, then the length (R140, R177, R181). -/
theorem errorOf_decodeRegion (c : Cipher) (port : KeyPort) (enc : Bool) (n : Nat) (r : List Byte) :
    errorOf (decodeRegion c port enc n r) =
      if enc = true ∧ port.valid = false then some .missingKey
      else if r.length < regionLength enc n then some .payloadTruncated else none := by
  cases enc with
  | false =>
    simp only [decodeRegion, decodeRaw, regionLength, Bool.false_eq_true, false_and, if_false]
    split_ifs <;> rfl
  | true =>
    simp only [decodeRegion, decodeCiph, keyOrFail, regionLength, if_true, true_and]
    cases port.valid with
    | false => rfl
    | true =>
      simp only [if_true, Bool.true_eq_false, if_false]
      split_ifs <;> rfl

/-! ### The header of a frame, by its bytes -/

/-- `FBUF` begins with a valid header: 16 bytes and the marker (R123, R175). -/
abbrev ValidHeader (b : List Byte) : Prop := 16 ≤ b.length ∧ b[0]? = some sof

/-- The encrypt bit of a frame, in its byte 4 (R45, R61). -/
def frameEncrypt (b : List Byte) : Bool := (b.getD 4 0).getLsbD 0

/-- The declared length of a frame, in its bytes 1 and 2 (R43, R61). -/
def frameLength (b : List Byte) : Nat := (b.getD 1 0).toNat + 256 * (b.getD 2 0).toNat

theorem not_validHeader_iff {b : List Byte} : ¬ ValidHeader b ↔ b.length < 16 ∨ b[0]? ≠ some sof := by
  rw [not_and_or, Nat.not_le]

theorem hdrDecode_of_not_validHeader {b : List Byte} (hb : ¬ ValidHeader b) : hdrDecode b = .error .invalidHeader :=
  hdrDecode_eq_error.2 ⟨rfl, not_validHeader_iff.1 hb⟩

/-- A valid header decodes to one with the frame's encrypt bit and length (R123). -/
theorem hdrDecode_of_validHeader {b : List Byte} (hb : ValidHeader b) :
    ∃ h, hdrDecode b = .ok h ∧ h.encrypt = frameEncrypt b ∧ h.length.toNat = frameLength b := by
  obtain ⟨h, hh⟩ := exists_hdrDecode hb.1 hb.2
  obtain ⟨-, -, hflags, hlength⟩ := hdrDecode_bytes hh
  exact ⟨h, hh, by rw [Header.encrypt, hflags, frameEncrypt], hlength⟩

/-- DEC's error in the order of R181: the header, the key, the length. -/
theorem errorOf_decResult (c : Cipher) (port : KeyPort) (b : List Byte) :
    errorOf (decResult c port b) =
      if ¬ ValidHeader b then some .invalidHeader
      else if frameEncrypt b = true ∧ port.valid = false then some .missingKey
      else if b.length < 16 + regionLength (frameEncrypt b) (frameLength b) then some .payloadTruncated
      else none := by
  by_cases hb : ValidHeader b
  · obtain ⟨h, hh, henc, hlen⟩ := hdrDecode_of_validHeader hb
    have hregion : errorOf (decResult c port b) =
        errorOf (decodeRegion c port (frameEncrypt b) (frameLength b) (b.drop hdrWire)) := by
      rw [← henc, ← hlen]
      simp only [decResult, hh]
      cases decodeRegion c port h.encrypt h.length.toNat (b.drop hdrWire) <;> rfl
    have hdrop : (b.drop hdrWire).length < regionLength (frameEncrypt b) (frameLength b) ↔
        b.length < 16 + regionLength (frameEncrypt b) (frameLength b) := by
      rw [List.length_drop, hdrWire]
      have := hb.1
      omega
    rw [hregion, errorOf_decodeRegion, if_neg (not_not.2 hb)]
    simp only [hdrop]
  · rw [if_pos hb, decResult_eq_error.2 (.inl (hdrDecode_of_not_validHeader hb)), errorOf]

/-! ### The error of an operation -/

/-- The error an operation started in this state ends in, if any: that of its computation. The shapes compute nothing
that can fail. -/
def State.opError (s : State) : Instr → Option Err
  | .enc => errorOf (encResult Config.cipher s.keyPort s.h (s.content .pbuf) s.plen)
  | .dec => errorOf (decResult Config.cipher s.keyPort (s.content .fbuf))
  | .lgn => errorOf (loginParse (s.content .pbuf))
  | _ => none

section OpError

variable (s : State)

theorem State.opError_enc :
    s.opError .enc = if s.h.encrypt = true ∧ s.keyValid = false then some .missingKey else none :=
  (errorOf_encResult _ _ _ _ _).trans (errorOf_encodeRegion _ _ _ _)

theorem State.opError_dec :
    s.opError .dec =
      if ¬ ValidHeader (s.content .fbuf) then some .invalidHeader
      else if frameEncrypt (s.content .fbuf) = true ∧ s.keyValid = false then some .missingKey
      else if (s.content .fbuf).length <
          16 + regionLength (frameEncrypt (s.content .fbuf)) (frameLength (s.content .fbuf)) then
        some .payloadTruncated
      else none :=
  errorOf_decResult _ _ _

theorem State.opError_lgn :
    s.opError .lgn = if (s.content .pbuf).length < 25 then some .payloadTruncated else none :=
  errorOf_loginParse _

variable {s} {t : State} {i : Instr}

/-- A computation that ends well is committed with `ERR` 0, one that fails takes its error (R182). -/
theorem State.finish_reports {α : Type} (r : Except Err α) {commit : α → State}
    (hok : ∀ a, statusErr (commit a).status = 0) :
    (errorOf r = none ∧ statusErr (s.finish r commit).status = 0) ∨
      ∃ e, errorOf r = some e ∧ s.finish r commit = s.raise e := by
  cases r with
  | ok a => exact .inl ⟨rfl, hok a⟩
  | error e => exact .inr ⟨e, rfl, rfl⟩

/-- How each of the five operations ends: without an error and with `ERR` 0, or with the error taken (R182). -/
theorem exec_operation_reports (hi : i ∈ [Instr.initq, .initr, .enc, .dec, .lgn]) (h : exec i s = .next t) :
    (s.opError i = none ∧ statusErr t.status = 0) ∨ ∃ e, s.opError i = some e ∧ t = s.raise e := by
  simp only [List.mem_cons, List.not_mem_nil, or_false] at hi
  rcases hi with rfl | rfl | rfl | rfl | rfl
  all_goals obtain rfl : _ = t := Host.Outcome.next.inj h
  case inl | inr.inl => exact .inl ⟨rfl, rfl⟩
  all_goals exact State.finish_reports _ fun _ => statusErr_statusWord _ _ _ _

/-- `STATUS.ERR` reports the operation's error (R180, R182). -/
theorem statusErr_of_exec (hi : i ∈ [Instr.initq, .initr, .enc, .dec, .lgn]) (h : exec i s = .next t) :
    statusErr t.status = errCode (s.opError i) := by
  rcases exec_operation_reports hi h with ⟨hnone, hzero⟩ | ⟨e, hsome, rfl⟩
  · rw [hnone, hzero, errCode]
  · rw [hsome, statusErr_raise, errCode]

/-- `ERR` has an error's code exactly when the operation ends in that error, and then `STATUS` alone changes. -/
theorem exec_reports_error (hi : i ∈ [Instr.initq, .initr, .enc, .dec, .lgn]) (h : exec i s = .next t) (e : Err) :
    (statusErr t.status = e.code ↔ s.opError i = some e) ∧ (statusErr t.status = e.code → t = s.raise e) := by
  have hiff : statusErr t.status = e.code ↔ s.opError i = some e := by
    rw [statusErr_of_exec hi h]
    exact errCode_injective.eq_iff (b := some e)
  refine ⟨hiff, fun he => ?_⟩
  rcases exec_operation_reports hi h with ⟨hnone, -⟩ | ⟨d, hsome, rfl⟩
  · rw [hiff.1 he] at hnone
    cases hnone
  · rw [Option.some.inj ((hiff.1 he).symm.trans hsome)]

/-- DEC takes the error its computation ends in. -/
theorem exec_dec_of_opError {e : Err} (he : s.opError .dec = some e) : exec .dec s = .next (s.raise e) :=
  exec_dec_of_error (errorOf_eq_some.1 he)

end OpError

/-! ### When each error is reported -/

section Causes

variable {s : State} {i : Instr}

/-- A frame that is too short, by the bytes its region takes with and without the encrypt bit (R69). -/
theorem not_missingKey_and_lt_frame_iff {enc valid : Bool} {n k : Nat} :
    ¬ (enc = true ∧ valid = false) ∧ k < 16 + regionLength enc n ↔
      if enc = true then valid = true ∧ k < 16 + align16 n else k < 16 + n := by
  cases enc <;> simp [regionLength]

/-- DEC's three errors, each where the causes before it in the order of R181 do not hold. -/
theorem opError_dec_eq_some {e : Err} :
    s.opError .dec = some e ↔
      (¬ ValidHeader (s.content .fbuf) ∧ e = .invalidHeader) ∨
      (ValidHeader (s.content .fbuf) ∧
        ((frameEncrypt (s.content .fbuf) = true ∧ s.keyValid = false) ∧ e = .missingKey ∨
         (¬ (frameEncrypt (s.content .fbuf) = true ∧ s.keyValid = false) ∧
          (s.content .fbuf).length <
            16 + regionLength (frameEncrypt (s.content .fbuf)) (frameLength (s.content .fbuf))) ∧
          e = .payloadTruncated)) := by
  rw [State.opError_dec]
  have hsome (d : Err) : some d = some e ↔ e = d := Option.some_inj.trans eq_comm
  split_ifs with hvalid hkey hshort
  · rw [hsome]; tauto
  · rw [hsome]; tauto
  · tauto
  · rw [hsome]; tauto

/-- The three operations that can fail, each with its errors (R175, R176, R177). -/
theorem opError_eq_some {e : Err} :
    s.opError i = some e ↔
      (i = .enc ∧ (s.h.encrypt = true ∧ s.keyValid = false) ∧ e = .missingKey) ∨
      (i = .dec ∧ s.opError .dec = some e) ∨
      (i = .lgn ∧ (s.content .pbuf).length < 25 ∧ e = .payloadTruncated) := by
  cases i with
  | enc => simp [State.opError_enc, eq_comm (b := e)]
  | dec => simp
  | lgn => simp [State.opError_lgn, eq_comm (b := e)]
  | _ => simp [State.opError]

/-- `InvalidHeader` has one cause, in DEC (R175). -/
theorem opError_eq_invalidHeader :
    s.opError i = some .invalidHeader ↔ i = .dec ∧ ¬ ValidHeader (s.content .fbuf) := by
  simp only [opError_eq_some (i := i), opError_dec_eq_some, reduceCtorEq, and_true, and_false, or_false, false_or]

/-- `MissingKey` has one cause each in ENC and in DEC, where the header comes first (R176, R181). -/
theorem opError_eq_missingKey :
    s.opError i = some .missingKey ↔ s.keyValid = false ∧
      ((i = .enc ∧ s.h.encrypt = true) ∨
       (i = .dec ∧ ValidHeader (s.content .fbuf) ∧ frameEncrypt (s.content .fbuf) = true)) := by
  simp only [opError_eq_some (i := i), opError_dec_eq_some, reduceCtorEq, and_true, and_false, or_false, false_or]
  tauto

/-- `PayloadTruncated` has one cause each in LGN and in DEC, where the header and the key come first (R177, R181). -/
theorem opError_eq_payloadTruncated :
    s.opError i = some .payloadTruncated ↔
      (i = .lgn ∧ (s.content .pbuf).length < 25) ∨
      (i = .dec ∧ ValidHeader (s.content .fbuf) ∧
        ¬ (frameEncrypt (s.content .fbuf) = true ∧ s.keyValid = false) ∧
        (s.content .fbuf).length <
          16 + regionLength (frameEncrypt (s.content .fbuf)) (frameLength (s.content .fbuf))) := by
  simp only [opError_eq_some (i := i), opError_dec_eq_some, reduceCtorEq, and_true, and_false, false_or]
  rw [or_comm]

end Causes

/-- Settles O15: `InvalidHeader` is the error of DEC without a valid header, and of no other operation. -/
theorem invalidHeaderExactlyWhen : Obligations.InvalidHeaderExactlyWhen := by
  intro i s t hi h
  obtain ⟨hiff, hraise⟩ := exec_reports_error hi h .invalidHeader
  refine ⟨hiff.trans ?_, hraise⟩
  rw [opError_eq_invalidHeader, not_validHeader_iff]
  rfl

/-- Settles O16: `MissingKey` is the error of ENC and DEC with the encrypt bit and no key, the header being valid. -/
theorem missingKeyExactlyWhen : Obligations.MissingKeyExactlyWhen := by
  intro i s t hi h
  obtain ⟨hiff, hraise⟩ := exec_reports_error hi h .missingKey
  refine ⟨hiff.trans ?_, hraise⟩
  rw [opError_eq_missingKey, and_assoc (a := 16 ≤ _)]
  rfl

/-- Settles O17: `PayloadTruncated` is the error of LGN of a short payload and of DEC of a short frame, the header being
valid and no key missing. -/
theorem payloadTruncatedExactlyWhen : Obligations.PayloadTruncatedExactlyWhen := by
  intro i s t hi h
  obtain ⟨hiff, hraise⟩ := exec_reports_error hi h .payloadTruncated
  refine ⟨hiff.trans ?_, hraise⟩
  rw [opError_eq_payloadTruncated, not_missingKey_and_lt_frame_iff, and_assoc (a := 16 ≤ _)]
  rfl

/-- Settles O18: an operation that does not end with `ERR` 0 has taken its error. -/
theorem errorsChangeOnlyStatus : Obligations.ErrorsChangeOnlyStatus := by
  intro i s t hi h hne
  rcases exec_operation_reports hi h with ⟨-, hzero⟩ | ⟨e, -, rfl⟩
  · exact absurd hzero hne
  · refine ⟨rfl, ?_⟩
    rw [statusErr_raise]
    rfl

/-- Settles O19: an op code that does not decode runs no operation; DEC's error is the first of header, key and
length. -/
theorem errorPriority : Obligations.ErrorPriority := by
  refine ⟨fun s op rest hs hop => ?_, fun s hbad => ?_, fun s hlen hsof henc hkey => ?_, fun s henc hkey => ?_,
    fun s hlen hsof hkey hshort => ?_⟩
  · exact ⟨_, unassignedOpTakesIllegalOp s op rest hs hop, rfl⟩
  · have herr : s.opError .dec = some .invalidHeader :=
      opError_eq_invalidHeader.2 ⟨rfl, not_validHeader_iff.2 hbad⟩
    exact ⟨_, exec_dec_of_opError herr, rfl⟩
  · have herr : s.opError .dec = some .missingKey :=
      opError_eq_missingKey.2 ⟨hkey, .inr ⟨rfl, ⟨hlen, hsof⟩, henc⟩⟩
    exact ⟨_, exec_dec_of_opError herr, rfl⟩
  · exact ⟨_, exec_enc_of_missingKey henc hkey, rfl⟩
  · have hnotMissing : ¬ (frameEncrypt (s.content .fbuf) = true ∧ s.keyValid = false) :=
      fun ⟨henc, hno⟩ => Bool.false_ne_true (hno.symm.trans (hkey henc))
    have herr : s.opError .dec = some .payloadTruncated :=
      opError_eq_payloadTruncated.2 (.inr ⟨rfl, ⟨hlen, hsof⟩, hnotMissing, hshort⟩)
    exact ⟨_, exec_dec_of_opError herr, rfl⟩

/-! ### Unknown enumeration codes -/

/-- `UNK_MT` says whether the byte is outside the table of `message_type` (R91, R179). -/
theorem statusUnkMt_statusOfHeader (c : Codes) (h : Header) :
    statusUnkMt (statusOfHeader c h) = true ↔ h.msgType ∉ messageTypes.map (mtCode c) := by
  rw [statusOfHeader, statusUnkMt_statusWord]
  exact isUnknown_codedBy _

/-- `UNK_CMD` says whether the byte is outside the table of `command` (R94, R179). -/
theorem statusUnkCmd_statusOfHeader (c : Codes) (h : Header) :
    statusUnkCmd (statusOfHeader c h) = true ↔ h.command ∉ commandNames.map (cmdCode c) := by
  rw [statusOfHeader, statusUnkCmd_statusWord]
  exact isUnknown_codedBy _

/-- `UNK_LS` says whether the class is that of an unknown code (R161, R179). -/
theorem statusUnkLs_statusOfLogin (cls : BitVec 2) : statusUnkLs (statusOfLogin cls) = true ↔ cls = 3 := by
  rw [statusOfLogin, statusUnkLs_statusWord, beq_iff_eq]

/-- ENC and DEC without an error report on the header registers they leave (R138, R142). -/
theorem status_of_exec_ok {i : Instr} {s t : State} (hi : i ∈ [Instr.enc, .dec]) (h : exec i s = .next t)
    (he : statusErr t.status = 0) : t.status = statusOfHeader s.codes t.h := by
  obtain rfl | rfl : i = .enc ∨ i = .dec := by simpa using hi
  · obtain ⟨b, -, rfl⟩ := exec_enc_ok h he
    rfl
  · obtain ⟨hd, p, -, -, rfl⟩ := exec_dec_ok h he
    rfl

/-- An LGN that reports no error has committed the fields of its payload (R161). -/
theorem exec_lgn_ok {s t : State} (h : exec .lgn s = .next t) (he : statusErr t.status = 0) :
    ∃ f, loginParse (s.content .pbuf) = .ok f ∧ t = s.commitLgn f := by
  rcases exec_lgn_cases h with hok | ⟨-, rfl⟩
  · exact hok
  · rw [statusErr_raise] at he
    exact absurd he (Err.code_ne_zero _)

/-- Bytes 3 and 5 of a frame are looked at by no check of DEC. -/
theorem opError_dec_set_codes (s : State) (mt cmd : Byte) :
    (s.setFbuf (((s.content .fbuf).set 3 mt).set 5 cmd)).opError .dec = s.opError .dec := by
  rw [State.opError_dec, State.opError_dec, State.setFbuf_content_fbuf]
  simp [ValidHeader, frameEncrypt, frameLength]

/-- Two starts of an operation that end in the same error report the same `ERR`. -/
theorem statusErr_congr {i : Instr} {s s' t u : State} (hi : i ∈ [Instr.initq, .initr, .enc, .dec, .lgn])
    (h : exec i s = .next t) (h' : exec i s' = .next u) (herr : s'.opError i = s.opError i) :
    statusErr u.status = statusErr t.status := by
  rw [statusErr_of_exec hi h, statusErr_of_exec hi h', herr]

/-- A payload of at least 25 bytes parses, its first byte being the status (R160). -/
theorem exists_loginParse_of_le {p : List Byte} (hp : 25 ≤ p.length) :
    ∃ f, loginParse p = .ok f ∧ p[0]? = some f.status := by
  cases hf : loginParse p with
  | ok f =>
    obtain ⟨hlen, hst, -⟩ := loginParse_eq_ok.1 hf
    exact ⟨f, rfl, by rw [List.getElem?_eq_getElem (by omega), hst]⟩
  | error e =>
    obtain ⟨hshort, -⟩ := loginParse_eq_error.1 hf
    omega

/-- Settles O20: the flags are the tables' answers on the registers left behind, and no check of an operation looks at
an enumeration byte. -/
theorem unknownCodesAreFlaggedNotErrors : Obligations.UnknownCodesAreFlaggedNotErrors := by
  refine ⟨fun i s t hi h he => ?_, fun s hclear => ?_, fun s t mt cmd h => ?_,
    fun s lo hi mt fl cmd sub u1 u2 pad region hb hpad hclear hlen => ?_, fun s t mt cmd h => ?_,
    fun s t h he => ?_, fun s hlen => ?_⟩
  · rw [status_of_exec_ok hi h he]
    obtain ⟨hbit3, hbit7, -⟩ := statusLegal_header s.codes t.h
    exact ⟨statusUnkMt_statusOfHeader _ _, statusUnkCmd_statusOfHeader _ _, statusUnkLs_statusWord _ _ _ _,
      hbit3, hbit7⟩
  · exact ⟨_, exec_enc_of_region (encodeRegion_of_clear hclear), statusErr_statusWord _ _ _ _⟩
  · refine ⟨_, rfl, statusErr_congr (by decide) h rfl ?_⟩
    rw [State.opError_enc, State.opError_enc]
    rfl
  · obtain ⟨t, ht, hrule⟩ := decFollowsItsRule.2 s lo hi mt fl cmd sub u1 u2 pad region hb hpad
    have hnotEnc : ¬ fl.getLsbD 0 = true := by rw [hclear]; exact Bool.false_ne_true
    simp only [if_neg hnotEnc, if_neg (Nat.not_lt.2 hlen)] at hrule
    exact ⟨t, ht, hrule.statusErr_eq_zero, by rw [hrule.header], by rw [hrule.header]⟩
  · exact ⟨_, rfl, statusErr_congr (by decide) h rfl (opError_dec_set_codes s mt cmd)⟩
  · obtain ⟨f, -, rfl⟩ := exec_lgn_ok h he
    have hcls := lsClass_eq_three s.codes f.status
    obtain ⟨hbit3, hbit7, -⟩ := statusLegal_login (loginRegs s.codes f).cls
    exact ⟨hcls, (statusUnkLs_statusOfLogin _).trans hcls, statusUnkMt_statusWord _ _ _ _,
      statusUnkCmd_statusWord _ _ _ _, hbit3, hbit7⟩
  · obtain ⟨f, hf, hst⟩ := exists_loginParse_of_le hlen
    exact ⟨_, exec_lgn_of_parse hf, statusErr_statusWord _ _ _ _, hst⟩

/-! ### The old `STATUS`, and no input -/

/-- An operation ends by overwriting `STATUS`, whether it commits or takes an error (R182, R183). -/
theorem State.next_finish_setStatus {α : Type} (s : State) (w : Byte) (r : Except Err α) {f g : α → State}
    (hfg : ∀ a, g a = f a) :
    (.next ((s.setStatus w).finish r g) : Host.Outcome State Fault Refusal) = .next (s.finish r f) := by
  cases r with
  | ok a => exact congrArg _ (hfg a)
  | error e => rfl

/-- Settles O27: no operand of an operation is in `STATUS`, and every ending overwrites it. -/
theorem operationsIgnoreOldStatus : Obligations.OperationsIgnoreOldStatus := by
  intro i s t w hi h
  simp only [List.mem_cons, List.not_mem_nil, or_false] at hi
  rcases hi with rfl | rfl | rfl | rfl | rfl
  all_goals obtain rfl : _ = t := Host.Outcome.next.inj h
  case inl | inr.inl => rfl
  all_goals exact State.next_finish_setStatus s w _ fun _ => rfl

/-- Settles O46: with no input there is nothing to fetch. -/
theorem idleHoldsState : Obligations.IdleHoldsState := by
  intro s hs
  simp only [step, State.fetch_eq_none.2 hs]

end Sys2Proof.Machine
end

section
/-! Reset and hazards (`70_reset_and_hazards.md`): the stale length that ENC replaces, what every register and buffer
reads after the reset input, and that a step from any state ends in a next one. -/

namespace Sys2Proof.Machine

/-! ### The stale length -/

/-- Committing a result of ENC overwrites `H.LENGTH`, and the `STATUS` it gives is of other registers: what the host wrote
to `H.LENGTH` is gone (R206). -/
theorem State.commitEnc_setHeader_writeHReg_length (s : State) (v : Nat) (r : EncResult) :
    (s.setHeader (writeHReg s.h .length v)).commitEnc r = s.commitEnc r := rfl

/-- The header that ENC encodes has `PLEN` in its length field, whatever `H.LENGTH` held (R138). -/
theorem writeHReg_length_with_length (h : Header) (v : Nat) (n : Half) :
    { writeHReg h .length v with length := n } = { h with length := n } := rfl

/-- Settles O24: the region does not depend on `H.LENGTH`, and the commit overwrites it. -/
theorem staleLengthNeverUsed : Obligations.StaleLengthNeverUsed := by
  intro s t v h he
  obtain ⟨b, hb, rfl⟩ := exec_enc_ok h he
  refine ⟨?_, by rw [State.commitEnc_h]⟩
  rw [exec_enc_of_region (s := s.setHeader (writeHReg s.h .length v)) hb, State.commitEnc_setHeader_writeHReg_length,
    State.setHeader_plen, State.setHeader_h, writeHReg_length_with_length]

/-! ### The reset input -/

/-- The reset input is applied to the state with the input taken (R200). -/
theorem step_of_reset {s : State} {rest : List Input} (hs : s.inputs = .reset :: rest) :
    step s = .next (applyReset ((s.setInputs rest).setReply .none)) := by
  have hf := State.fetch_eq_some.2 ⟨rest, hs, rfl⟩
  simp only [step, hf]

section Reset

variable (s : State)

/-- The reset values of the registers are those of R32 under any code tables. -/
theorem applyReset_readReg (r : Reg) : (applyReset s).readReg r = State.reset.readReg r := by
  cases r with
  | h r => exact congrArg (readHReg · r) (requestDefaults_eq s.codes defaultCodes)
  | _ => rfl

@[simp] theorem applyReset_content (space : Space) : (applyReset s).content space = [] := by cases space <;> rfl

@[simp] theorem applyReset_readByte (space : Space) (a : Nat) : (applyReset s).readByte space a = none := by
  cases space <;> rfl

@[simp] theorem applyReset_keyValid : (applyReset s).keyValid = s.keyValid := rfl

@[simp] theorem applyReset_key : (applyReset s).key = s.key := rfl

@[simp] theorem applyReset_codes : (applyReset s).codes = s.codes := rfl

@[simp] theorem applyReset_inputs : (applyReset s).inputs = s.inputs := rfl

end Reset

/-- Settles O9: the rule of the reset input, read register by register and buffer by buffer. -/
theorem resetInputRestoresTheBlock : Obligations.ResetInputRestoresTheBlock := fun _ _ hs =>
  ⟨_, step_of_reset hs, applyReset_readReg _, applyReset_content _, applyReset_readByte _, applyReset_keyValid _,
    applyReset_key _, applyReset_codes _, applyReset_inputs _⟩

/-! ### Every step answers -/

/-- An operation ends: it commits or takes an error (R205). -/
theorem exists_exec_of_decodeOp {op : Byte} {i : Instr} (hop : decodeOp op = .ok i) (s : State) :
    ∃ t, exec i s = .next t := by
  rcases decodeOp_eq_ok.1 hop with ⟨-, rfl⟩ | ⟨-, rfl⟩ | ⟨-, rfl⟩ | ⟨-, rfl⟩ | ⟨-, rfl⟩
  all_goals exact ⟨_, rfl⟩

/-- Settles O47: by the input the step takes, if there is one. -/
theorem everyStepAnswers : Obligations.EveryStepAnswers := by
  intro s
  cases hs : s.inputs with
  | nil => exact ⟨s, idleHoldsState s hs⟩
  | cons j rest =>
    cases j with
    | start op =>
      cases hop : decodeOp op with
      | ok i => exact step_of_start hs hop ▸ exists_exec_of_decodeOp hop _
      | error e => exact ⟨_, step_of_start_error hs hop⟩
    | move m => exact ⟨_, step_of_move hs⟩
    | key k => exact ⟨_, step_of_key hs⟩
    | noKey => exact ⟨_, step_of_noKey hs⟩
    | reset => exact ⟨_, step_of_reset hs⟩

end Sys2Proof.Machine
end
